-- ==== Sys2Proof/Word.lean ====
section
/-! DEFINITION. The word types of the block: CTRL and DATA are 32 bits wide (R7, R21), FIFOs hold bytes (R9). -/

namespace Sys2Proof

/-- A byte: what a FIFO holds and an endpoint exchanges (R9, R38). -/
abbrev Byte := BitVec 8

/-- A 32-bit word: CTRL, DATA, a descriptor, a written VALUE (R7, R80). -/
abbrev Word := BitVec 32

/-- The descriptor's WIDTH field, an access width in bytes from 0 to 63 (R80, R82). -/
abbrev Width := BitVec 6

/-- The descriptor's FIELD: a byte offset in a window, or a host event's id (R80, R83). -/
abbrev Offset := BitVec 24

end Sys2Proof
end

