-- ==== Sys2Proof/Config.lean ====
section
/-! DEFINITION. What an implementation of the block fixes: the parameters R7 leaves OPEN, as plain data, and the
block's one free value, the response of the SPI downstream bus (R244). The reference values of the parameters, and
the masks a layout gives, are in Machine/Layout.lean. -/

namespace Sys2Proof

/-- A bit range `lsb + width - 1 : lsb` of CTRL (R28). -/
structure Field where
  lsb   : Nat
  width : Nat
  deriving DecidableEq, Repr

/-- Where the fields of the UART's CTRL stand (R28, R29, R30). A field of one bit is given by its position, a wider
one by its range. OPEN in the source (D1). -/
structure UartLayout where
  en          : Nat
  simMode     : Nat
  hwfcEn      : Nat
  prsc        : Field
  baud        : Field
  irqRxNempty : Nat
  irqTxEmpty  : Nat
  rxNempty    : Nat
  rxHalf      : Nat
  rxFull      : Nat
  txEmpty     : Nat
  txNhalf     : Nat
  txFull      : Nat
  rxOver      : Nat
  txBusy      : Nat
  deriving DecidableEq, Repr

/-- Where the fields of the SPI's CTRL stand (R28, R33, R34). OPEN in the source (D1). -/
structure SpiLayout where
  en         : Nat
  cpha       : Nat
  cpol       : Nat
  csSel0     : Nat
  csSel1     : Nat
  csSel2     : Nat
  csEn       : Nat
  prsc       : Field
  cdiv       : Field
  irqRxAvail : Nat
  irqTxEmpty : Nat
  irqTxNhalf : Nat
  rxAvail    : Nat
  txEmpty    : Nat
  txNhalf    : Nat
  txFull     : Nat
  fifoSize   : Field
  busy       : Nat
  deriving DecidableEq, Repr

/-- A number N of chip-select lines: a natural number with a proof of `N >= 1`, as R26 asks. -/
abbrev LineCount := { n : Nat // 1 ≤ n }

/-- The parameters of the block and of its first UART and SPI controller, fixed when it is constructed and changed by no
event (R7, R26). A state carries its own, so that a statement about every state is a statement about every choice of
them (DESIGN CHOICE, log 1). -/
structure Params where
  /-- `UartLayout` (R28, D1). -/
  uart         : UartLayout
  /-- `SpiLayout` (R28, D1). -/
  spi          : SpiLayout
  /-- `SPI_NCS`, the number N of chip-select lines (R26). -/
  ncs          : LineCount
  /-- `UART_BASE` (R61, D2). -/
  uartBase     : Nat
  /-- `SPI_BASE` (R61, D2). -/
  spiBase      : Nat
  /-- `REGION_SIZE`, bytes each device decodes (R61, D3). -/
  regionSize   : Nat
  /-- `UART_DATA_INFO`, of which a UART DATA read shows bits 31:8 (R32, D10). -/
  uartDataInfo : Word
  /-- `UART_IRQ_ID`, the interrupt-controller input the UART's line drives (R169, D19). -/
  uartIrqId    : Nat
  /-- `SPI_IRQ_ID` (R169, D19). -/
  spiIrqId     : Nat
  deriving DecidableEq, Repr

/-- The parameters of R7 that belong to one UART: "each device instance owns" its own, its window's base among them
(R61, R74; log 16). -/
structure UartParams where
  layout   : UartLayout
  base     : Nat
  dataInfo : Word
  irqId    : Nat
  deriving DecidableEq, Repr

/-- The parameters of R7 that belong to one SPI controller (R26, R61, R74; log 16). -/
structure SpiParams where
  layout : SpiLayout
  ncs    : LineCount
  base   : Nat
  irqId  : Nat
  deriving DecidableEq, Repr

/-- The first UART's parameters. -/
def Params.uartParams (p : Params) : UartParams :=
  { layout := p.uart, base := p.uartBase, dataInfo := p.uartDataInfo, irqId := p.uartIrqId }

/-- The first SPI controller's parameters. -/
def Params.spiParams (p : Params) : SpiParams :=
  { layout := p.spi, ncs := p.ncs, base := p.spiBase, irqId := p.spiIrqId }

/-- The parameters with another UART's in place of the first one's. -/
def Params.withUart (p : Params) (u : UartParams) : Params :=
  { p with uart := u.layout, uartBase := u.base, uartDataInfo := u.dataInfo, uartIrqId := u.irqId }

/-- The parameters with another SPI controller's in place of the first one's. -/
def Params.withSpi (p : Params) (c : SpiParams) : Params :=
  { p with spi := c.layout, ncs := c.ncs, spiBase := c.base, spiIrqId := c.irqId }

/-- FREE VALUE (log 6): the byte the SPI downstream device answers in an exchange for which the state schedules no
answer. R244: "The response r is a free input of the event, a draw: the model assumes nothing of it." It may depend
on which draw it is, on the byte sent and on the chip-select levels, which are all the device sees (R244). The counter runs
over the exchanges of every SPI controller, so that no two of them share a draw (log 6, log 16). -/
opaque Config.spiResponse : Nat → Byte → List Bool → Byte

end Sys2Proof
end

