-- ==== Sys2Proof/Syntax.lean ====
section
/-! DEFINITION. The instructions: the 16 rows of spec/opcode_table.json, each an event of one device (R2, R12, R86),
with the operands R84 gives it. -/

namespace Sys2Proof

/-- The two devices of the block (R1). The device is no field of a descriptor (R80). -/
inductive Device where
  | uart
  | spi
  deriving DecidableEq, Repr

/-- One constructor per row of the opcode table. -/
inductive Instr where
  /-- `UART.RD_CTRL` (R201). -/
  | uartRdCtrl
  /-- `UART.RD_DATA` (R203). -/
  | uartRdData
  /-- `UART.WR_CTRL v` (R202). -/
  | uartWrCtrl (v : Word)
  /-- `UART.WR_DATA v` (R204). -/
  | uartWrData (v : Word)
  /-- `UART.RD_INVALID(off, w)` (R101). -/
  | uartRdInvalid (off : Offset) (w : Width)
  /-- `UART.WR_INVALID(off, w, v)` (R102). -/
  | uartWrInvalid (off : Offset) (w : Width) (v : Word)
  /-- `UART.EV_RESET` (R341). -/
  | uartEvReset
  /-- `UART.EV_RX_DELIVER b` (R205). -/
  | uartEvRxDeliver (b : Byte)
  /-- `UART.Q_CAN_RECEIVE` (R206). -/
  | uartQCanReceive
  /-- `SPI.RD_CTRL` (R240). -/
  | spiRdCtrl
  /-- `SPI.RD_DATA` (R242). -/
  | spiRdData
  /-- `SPI.WR_CTRL v` (R241). -/
  | spiWrCtrl (v : Word)
  /-- `SPI.WR_DATA v` (R243). -/
  | spiWrData (v : Word)
  /-- `SPI.RD_INVALID(off, w)` (R101). -/
  | spiRdInvalid (off : Offset) (w : Width)
  /-- `SPI.WR_INVALID(off, w, v)` (R102). -/
  | spiWrInvalid (off : Offset) (w : Width) (v : Word)
  /-- `SPI.EV_RESET` (R341). -/
  | spiEvReset
  deriving DecidableEq, Repr

end Sys2Proof
end

