-- ==== Sys2Proof/WellFormed.lean ====
section
/-! DEFINITION. Which terms of Instr spell an event of a device whose window has `regionSize` bytes: the offset of a
guest access lies in the window (R83), and an access that selects a register is not an invalid one (R87, R100). -/

namespace Sys2Proof

/-- `w = 4` at offset 0x0 or 0x4: the access that selects CTRL or DATA (R64, R65). -/
def selectsRegister (off : Offset) (w : Width) : Bool :=
  w == 4#6 && (off == 0#24 || off == 4#24)

/-- The offset lies in the window (R83). -/
def inWindow (regionSize : Nat) (off : Offset) : Bool :=
  decide (off.toNat < regionSize)

/-- The instruction spells an event of its device (R83, R86, R87). -/
def Instr.wf (regionSize : Nat) : Instr → Bool
  | .uartRdCtrl => inWindow regionSize 0#24
  | .uartRdData => inWindow regionSize 4#24
  | .uartWrCtrl _ => inWindow regionSize 0#24
  | .uartWrData _ => inWindow regionSize 4#24
  | .uartRdInvalid off w => inWindow regionSize off && !selectsRegister off w
  | .uartWrInvalid off w _ => inWindow regionSize off && !selectsRegister off w
  | .uartEvReset => true
  | .uartEvRxDeliver _ => true
  | .uartQCanReceive => true
  | .spiRdCtrl => inWindow regionSize 0#24
  | .spiRdData => inWindow regionSize 4#24
  | .spiWrCtrl _ => inWindow regionSize 0#24
  | .spiWrData _ => inWindow regionSize 4#24
  | .spiRdInvalid off w => inWindow regionSize off && !selectsRegister off w
  | .spiWrInvalid off w _ => inWindow regionSize off && !selectsRegister off w
  | .spiEvReset => true

end Sys2Proof
end

