-- ==== Sys2Proof/Decode.lean ====
section
/-! DEFINITION. The encoding of events (30_encoding.md): the decoder of R100, total on any bytes, which rejects by
the names of R88; the event map of R86 as a table; and the encoder. Laid out in bytes, an event is its descriptor,
four bytes little-endian, then its payload, a VALUE of four bytes little-endian or a BYTE (DESIGN CHOICE, log 8). -/

namespace Sys2Proof

/-! ### Words and bytes, little-endian (R63) -/

/-- The bytes of a word, the one at the lowest address first: byte 0 carries bits 7:0 (R63). -/
def bytesOfWord (v : Word) : List Byte :=
  [v.extractLsb' 0 8, v.extractLsb' 8 8, v.extractLsb' 16 8, v.extractLsb' 24 8]

/-- The word that bytes spell, the first one in bits 7:0 (R63). Absent high bytes are 0. -/
def wordOfBytes : List Byte → Word
  | [] => 0#32
  | b :: bs => b.setWidth 32 ||| (wordOfBytes bs <<< 8)

/-! ### The descriptor's fields (R80) -/

/-- `KIND`, bits 31:30 (R80, R81). -/
def kindOf (desc : Word) : BitVec 2 := desc.extractLsb' 30 2

/-- `WIDTH`, bits 29:24 (R80, R82). -/
def widthOf (desc : Word) : Width := desc.extractLsb' 24 6

/-- `FIELD`, bits 23:0 (R80, R83). -/
def fieldOf (desc : Word) : Offset := desc.extractLsb' 0 24

/-- The descriptor with the three fields (R80, R90). -/
def mkDescriptor (kind : BitVec 2) (w : Width) (field : Offset) : Word :=
  kind ++ w ++ field

/-! ### Refusals -/

/-- Why bytes spell no event of the device. All are safe: the machine stops. -/
inductive DecodeRefusal where
  /-- `reserved_kind`: KIND = 11 (R88). -/
  | reservedKind
  /-- `event_width_nonzero`: a host event with WIDTH != 0 (R88). -/
  | eventWidthNonzero
  /-- `unknown_event`: a host event with FIELD > 2 (R88). -/
  | unknownEvent
  /-- `event_not_on_device`: a delivery or a can-receive query applied to the SPI (R88). -/
  | eventNotOnDevice
  /-- `not_this_device`: a guest access with off >= REGION_SIZE (R88). -/
  | notThisDevice
  /-- Bytes of the descriptor or of its payload are missing: no event (R89; DESIGN CHOICE, log 8). -/
  | truncatedEvent
  deriving DecidableEq, Repr

/-! ### The decoder (R100) -/

/-- A guest read in the window (R100). -/
def decodeRead (dev : Device) (off : Offset) (w : Width) : Instr :=
  if w = 4#6 ∧ off = 0#24 then
    match dev with
    | .uart => .uartRdCtrl
    | .spi => .spiRdCtrl
  else if w = 4#6 ∧ off = 4#24 then
    match dev with
    | .uart => .uartRdData
    | .spi => .spiRdData
  else
    match dev with
    | .uart => .uartRdInvalid off w
    | .spi => .spiRdInvalid off w

/-- A guest write in the window (R100). -/
def decodeWrite (dev : Device) (off : Offset) (w : Width) (v : Word) : Instr :=
  if w = 4#6 ∧ off = 0#24 then
    match dev with
    | .uart => .uartWrCtrl v
    | .spi => .spiWrCtrl v
  else if w = 4#6 ∧ off = 4#24 then
    match dev with
    | .uart => .uartWrData v
    | .spi => .spiWrData v
  else
    match dev with
    | .uart => .uartWrInvalid off w v
    | .spi => .spiWrInvalid off w v

/-- A host event with its id and its payload byte (R83, R88). -/
def decodeHostEvent (dev : Device) (evt : Offset) (b : Byte) : Except DecodeRefusal Instr :=
  if evt = 0#24 then
    match dev with
    | .uart => .ok .uartEvReset
    | .spi => .ok .spiEvReset
  else if evt = 1#24 then
    match dev with
    | .uart => .ok (.uartEvRxDeliver b)
    | .spi => .error .eventNotOnDevice
  else if evt = 2#24 then
    match dev with
    | .uart => .ok .uartQCanReceive
    | .spi => .error .eventNotOnDevice
  else .error .unknownEvent

/-- `decode(dev, desc)` of R100, with the payload in the low bits of `payload`. -/
def decodeDescriptor (regionSize : Nat) (dev : Device) (desc payload : Word) : Except DecodeRefusal Instr :=
  if kindOf desc = 3#2 then .error .reservedKind
  else if kindOf desc = 2#2 then
    if widthOf desc = 0#6 then decodeHostEvent dev (fieldOf desc) (payload.setWidth 8)
    else .error .eventWidthNonzero
  else if inWindow regionSize (fieldOf desc) then
    if kindOf desc = 0#2 then .ok (decodeRead dev (fieldOf desc) (widthOf desc))
    else .ok (decodeWrite dev (fieldOf desc) (widthOf desc) payload)
  else .error .notThisDevice

/-- How many payload bytes follow a descriptor: a VALUE after a guest write, a BYTE after a delivery (R89). -/
def payloadBytes (desc : Word) : Nat :=
  if kindOf desc = 1#2 then 4
  else if kindOf desc = 2#2 ∧ fieldOf desc = 1#24 then 1
  else 0

/-- Decode the event at the front of the bytes, for the device they reached: the instruction and the bytes after it,
or the named reason they spell none. -/
def decode (regionSize : Nat) (dev : Device) : List Byte → Except DecodeRefusal (Instr × List Byte)
  | b0 :: b1 :: b2 :: b3 :: rest =>
    let desc := wordOfBytes [b0, b1, b2, b3]
    match decodeDescriptor regionSize dev desc (wordOfBytes (rest.take (payloadBytes desc))) with
    | .error e => .error e
    | .ok i =>
      if rest.length < payloadBytes desc then .error .truncatedEvent
      else .ok (i, rest.drop (payloadBytes desc))
  | _ => .error .truncatedEvent

/-! ### The event map as a table (R86) -/

/-- The nine rows of the event map, each by its mnemonic (R86). -/
inductive Row where
  | rdCtrl
  | rdData
  | wrCtrl
  | wrData
  | rdInvalid
  | wrInvalid
  | evReset
  | evRxDeliver
  | qCanReceive
  deriving DecidableEq, Repr

/-- One row of the event map: `(descriptor & mask) = pattern` selects it (R86). -/
structure MapRow where
  row     : Row
  pattern : Word
  mask    : Word
  deriving DecidableEq, Repr

/-- The event map in decoding order; a descriptor selects the first row it matches (R86, R87). -/
def eventMap : List MapRow :=
  [ ⟨.rdCtrl, 0x04000000#32, 0xFFFFFFFF#32⟩,
    ⟨.rdData, 0x04000004#32, 0xFFFFFFFF#32⟩,
    ⟨.wrCtrl, 0x44000000#32, 0xFFFFFFFF#32⟩,
    ⟨.wrData, 0x44000004#32, 0xFFFFFFFF#32⟩,
    ⟨.rdInvalid, 0x00000000#32, 0xC0000000#32⟩,
    ⟨.wrInvalid, 0x40000000#32, 0xC0000000#32⟩,
    ⟨.evReset, 0x80000000#32, 0xFFFFFFFF#32⟩,
    ⟨.evRxDeliver, 0x80000001#32, 0xFFFFFFFF#32⟩,
    ⟨.qCanReceive, 0x80000002#32, 0xFFFFFFFF#32⟩ ]

/-- The first row of the map that the descriptor matches (R86). -/
def firstRow (desc : Word) : Option Row :=
  (eventMap.find? fun r => (desc &&& r.mask) == r.pattern).map MapRow.row

/-- The row an instruction stands for. -/
def Instr.row : Instr → Row
  | .uartRdCtrl | .spiRdCtrl => .rdCtrl
  | .uartRdData | .spiRdData => .rdData
  | .uartWrCtrl _ | .spiWrCtrl _ => .wrCtrl
  | .uartWrData _ | .spiWrData _ => .wrData
  | .uartRdInvalid _ _ | .spiRdInvalid _ _ => .rdInvalid
  | .uartWrInvalid _ _ _ | .spiWrInvalid _ _ _ => .wrInvalid
  | .uartEvReset | .spiEvReset => .evReset
  | .uartEvRxDeliver _ => .evRxDeliver
  | .uartQCanReceive => .qCanReceive

/-- The device an instruction is an event of. -/
def Instr.device : Instr → Device
  | .uartRdCtrl => .uart
  | .uartRdData => .uart
  | .uartWrCtrl _ => .uart
  | .uartWrData _ => .uart
  | .uartRdInvalid _ _ => .uart
  | .uartWrInvalid _ _ _ => .uart
  | .uartEvReset => .uart
  | .uartEvRxDeliver _ => .uart
  | .uartQCanReceive => .uart
  | .spiRdCtrl => .spi
  | .spiRdData => .spi
  | .spiWrCtrl _ => .spi
  | .spiWrData _ => .spi
  | .spiRdInvalid _ _ => .spi
  | .spiWrInvalid _ _ _ => .spi
  | .spiEvReset => .spi

/-! ### The encoder, from the table of R86 and the fields of R80 -/

/-- The descriptor of an instruction (R80, R86). -/
def Instr.descriptor : Instr → Word
  | .uartRdCtrl => 0x04000000#32
  | .uartRdData => 0x04000004#32
  | .uartWrCtrl _ => 0x44000000#32
  | .uartWrData _ => 0x44000004#32
  | .uartRdInvalid off w => mkDescriptor 0#2 w off
  | .uartWrInvalid off w _ => mkDescriptor 1#2 w off
  | .uartEvReset => 0x80000000#32
  | .uartEvRxDeliver _ => 0x80000001#32
  | .uartQCanReceive => 0x80000002#32
  | .spiRdCtrl => 0x04000000#32
  | .spiRdData => 0x04000004#32
  | .spiWrCtrl _ => 0x44000000#32
  | .spiWrData _ => 0x44000004#32
  | .spiRdInvalid off w => mkDescriptor 0#2 w off
  | .spiWrInvalid off w _ => mkDescriptor 1#2 w off
  | .spiEvReset => 0x80000000#32

/-- The payload of an instruction, in bytes (R80, R89). -/
def Instr.payload : Instr → List Byte
  | .uartRdCtrl => []
  | .uartRdData => []
  | .uartWrCtrl v => bytesOfWord v
  | .uartWrData v => bytesOfWord v
  | .uartRdInvalid _ _ => []
  | .uartWrInvalid _ _ v => bytesOfWord v
  | .uartEvReset => []
  | .uartEvRxDeliver b => [b]
  | .uartQCanReceive => []
  | .spiRdCtrl => []
  | .spiRdData => []
  | .spiWrCtrl v => bytesOfWord v
  | .spiWrData v => bytesOfWord v
  | .spiRdInvalid _ _ => []
  | .spiWrInvalid _ _ v => bytesOfWord v
  | .spiEvReset => []

/-- The bytes of an instruction: its descriptor, then its payload (log 8). -/
def encode (i : Instr) : List Byte :=
  bytesOfWord i.descriptor ++ i.payload

/-! ### The host's view of the opcode table -/

/-- The reference value of `REGION_SIZE` (R7, R61, D3). -/
def referenceRegionSize : Nat := 8

/-- The longest event: a descriptor and a VALUE. -/
def maxEventBytes : Nat := 8

/-- The bytes of a table word of `nbits` bits, the bits above them zero, up to the longest event. -/
def tableBytes (nbits w : Nat) : List Byte :=
  (List.range maxEventBytes).map fun k => BitVec.ofNat 8 (w % 2 ^ nbits / 2 ^ (8 * k))

/-- The instruction the decoder reads from a table word that reached the device. -/
def decodeTableWordOn (dev : Device) (nbits w : Nat) : Option Instr :=
  match decode referenceRegionSize dev (tableBytes nbits w) with
  | .ok (i, _) => some i
  | .error _ => none

/-- The instruction the decoder reads from a table word. A descriptor does not name its device (R80), so the rows of
the two devices share their words; this view takes the word as reaching the UART, whose table has all nine rows
(DESIGN CHOICE, log 7). For the SPI's rows: `decodeTableWordOn .spi`. -/
def decodeTableWord (nbits w : Nat) : Option Instr :=
  decodeTableWordOn .uart nbits w

end Sys2Proof
end

