-- ==== Sys2Proof/Machine/Layout.lean ====
section
/-! DEFINITION. The capacities (R7), the masks a layout gives (R28), which parameters are a configuration of the block,
and the reference parameters: UART_REF (R29, R30), SPI_REF (R33, R34) and the reference values of R7. -/

namespace Sys2Proof

/-! ### Capacities (R7, R120) -/

/-- `UART_RX_CAP` (R7). -/
def uartRxCap : Nat := 32

/-- `SPI_RX_CAP` (R7). -/
def spiRxCap : Nat := 8

/-- `SPI_TX_CAP` (R7). -/
def spiTxCap : Nat := 8

/-! ### Bits and masks (R9, R28) -/

/-- `bit(i)`: the word with only bit i set (R9). -/
def bit (i : Nat) : Word := 1#32 <<< i

/-- The flag's bit if the flag is set, else no bit. -/
def flagBit (i : Nat) (flag : Bool) : Word :=
  if flag then bit i else 0#32

/-- The word with exactly the bits of the range set. -/
def Field.mask (f : Field) : Word :=
  (BitVec.allOnes f.width).setWidth 32 <<< f.lsb

/-- The range of one bit. -/
def bitField (i : Nat) : Field := ⟨i, 1⟩

/-- The union of some ranges (R28). -/
def unionMask (fields : List Field) : Word :=
  fields.foldr (fun f m => f.mask ||| m) 0#32

/-- A range lies inside bits 31:0 and is not empty (R28). -/
def Field.inWord (f : Field) : Bool :=
  decide (1 ≤ f.width) && decide (f.lsb + f.width ≤ 32)

/-- Two ranges share no bit (R28). -/
def Field.disjoint (f g : Field) : Bool :=
  decide (f.lsb + f.width ≤ g.lsb) || decide (g.lsb + g.width ≤ f.lsb)

/-- Every range lies in the word and no two share a bit: "The fields must be pairwise disjoint" (R28). -/
def fieldsWf : List Field → Bool
  | [] => true
  | f :: fs => f.inWord && fs.all f.disjoint && fieldsWf fs

/-! ### The UART's layout -/

/-- The read/write fields of UART CTRL (R29). -/
def UartLayout.rwFields (l : UartLayout) : List Field :=
  [bitField l.en, bitField l.simMode, bitField l.hwfcEn, l.prsc, l.baud, bitField l.irqRxNempty,
    bitField l.irqTxEmpty]

/-- The read-only fields of UART CTRL (R30). -/
def UartLayout.roFields (l : UartLayout) : List Field :=
  [bitField l.rxNempty, bitField l.rxHalf, bitField l.rxFull, bitField l.txEmpty, bitField l.txNhalf,
    bitField l.txFull, bitField l.rxOver, bitField l.txBusy]

/-- `UART_WMASK`, the union of the read/write fields (R28, R200). -/
def UartLayout.wmask (l : UartLayout) : Word := unionMask l.rwFields

/-- `UART_ROMASK`, the union of the read-only fields (R28). -/
def UartLayout.romask (l : UartLayout) : Word := unionMask l.roFields

/-- `UART_RESMASK = ~(WMASK | ROMASK)` (R28, R31). -/
def UartLayout.resmask (l : UartLayout) : Word := ~~~(l.wmask ||| l.romask)

/-- The layout is one R28 allows. -/
def UartLayout.wf (l : UartLayout) : Bool := fieldsWf (l.rwFields ++ l.roFields)

/-- `UART_REF` (R29, R30; its positions are the spec's own choice, D1, log 2). -/
def UartLayout.reference : UartLayout where
  en := 0
  simMode := 1
  hwfcEn := 2
  prsc := ⟨3, 3⟩
  baud := ⟨6, 10⟩
  rxNempty := 16
  rxHalf := 17
  rxFull := 18
  txEmpty := 19
  txNhalf := 20
  txFull := 21
  irqRxNempty := 22
  irqTxEmpty := 25
  rxOver := 30
  txBusy := 31

/-! ### The SPI's layout -/

/-- The read/write fields of SPI CTRL (R33). -/
def SpiLayout.rwFields (l : SpiLayout) : List Field :=
  [bitField l.en, bitField l.cpha, bitField l.cpol, bitField l.csSel0, bitField l.csSel1, bitField l.csSel2,
    bitField l.csEn, l.prsc, l.cdiv, bitField l.irqRxAvail, bitField l.irqTxEmpty, bitField l.irqTxNhalf]

/-- The read-only fields of SPI CTRL (R34). -/
def SpiLayout.roFields (l : SpiLayout) : List Field :=
  [bitField l.rxAvail, bitField l.txEmpty, bitField l.txNhalf, bitField l.txFull, l.fifoSize, bitField l.busy]

/-- `SPI_WMASK` (R28, R241). -/
def SpiLayout.wmask (l : SpiLayout) : Word := unionMask l.rwFields

/-- `SPI_ROMASK` (R28). -/
def SpiLayout.romask (l : SpiLayout) : Word := unionMask l.roFields

/-- `SPI_RESMASK` (R28, R35). -/
def SpiLayout.resmask (l : SpiLayout) : Word := ~~~(l.wmask ||| l.romask)

/-- The layout is one R28 allows, and `SPI_FIFO_SIZE` is the 4-bit field of R153. -/
def SpiLayout.wf (l : SpiLayout) : Bool :=
  fieldsWf (l.rwFields ++ l.roFields) && l.fifoSize.width == 4

/-- `SPI_REF` (R33, R34; its positions are the spec's own choice, D1, log 2). -/
def SpiLayout.reference : SpiLayout where
  en := 0
  cpha := 1
  cpol := 2
  csSel0 := 3
  csSel1 := 4
  csSel2 := 5
  csEn := 6
  prsc := ⟨7, 3⟩
  cdiv := ⟨10, 4⟩
  rxAvail := 16
  txEmpty := 17
  txNhalf := 18
  txFull := 19
  irqRxAvail := 20
  irqTxEmpty := 21
  irqTxNhalf := 22
  fifoSize := ⟨23, 4⟩
  busy := 31

/-! ### The parameters -/

/-- The parameters are a configuration of the block: layouts R28 allows, a window that holds both
registers and whose offsets FIELD can spell (R61, R80), and two windows that do not meet (log 11). -/
def Params.wf (p : Params) : Bool :=
  p.uart.wf && p.spi.wf && decide (8 ≤ p.regionSize) && decide (p.regionSize ≤ 2 ^ 24) &&
    (decide (p.uartBase + p.regionSize ≤ p.spiBase) || decide (p.spiBase + p.regionSize ≤ p.uartBase))

/-- The reference parameters: the reference values and the default N of R7. R7 gives the bases and the interrupt
inputs no reference value; the ones here are PRESUMED, the NEORV32 family's (log 3, log 4), and no statement rests
on them. -/
def Params.reference : Params where
  uart := UartLayout.reference
  spi := SpiLayout.reference
  ncs := ⟨1, by decide⟩
  uartBase := 0xFFF50000
  spiBase := 0xFFF80000
  regionSize := referenceRegionSize
  uartDataInfo := 0#32
  uartIrqId := 2
  spiIrqId := 6

end Sys2Proof
end

