-- ==== Sys2Proof/Machine/State.lean ====
section
/-! DEFINITION. The state of the block (10_state.md), as plain data: the device records of R23 and R25, of which
there may be more than one each (R74), the construction-time parameters of R7, which devices are attached (R340), the
output histories and logs of R39, R209 and R244, the answer of the last event, and the inputs still to come. The block holds no memory (R62), no program counter and no general register
(R21, R22). -/

namespace Sys2Proof.Machine

/-- Why the machine stops with a fault. -/
inductive Fault where
  /-- `pop_empty`: a pop of an empty FIFO, the caller-contract violation of R122 and R127. Raised by `fifoPop`; no
  event of the block reaches it. Safe: the machine stops. -/
  | popEmpty
  deriving DecidableEq, Repr

/-- Why the machine has no meaning for a request. All are safe: the machine stops. -/
inductive Refusal where
  /-- Raised by exec alone, for an instruction that has no meaning yet. -/
  | notModelled (mnemonic : String)
  /-- Raised by the fetch: the bytes spell no event of the device (R88, R89). -/
  | undecoded (reason : DecodeRefusal)
  /-- Raised by the fetch: an access outside every window "does not reach the block, and this spec says nothing of
  it" (R61, log 12). -/
  | outsideWindows
  /-- Raised by the fetch: an atomic memory operation to a window "has no meaning in this spec. A model refuses it"
  (R70). -/
  | atomicAccess
  /-- Raised by the fetch: an instruction fetch from a window "has no meaning in this spec, and a model refuses it"
  (R71). -/
  | instructionFetch
  /-- Raised by the fetch: an event for an instance of a device that was never attached (R74, log 16). -/
  | noSuchInstance
  /-- Raised by the fetch: an event for an instance after its detach: "After detach, no event applies to the device"
  (R340, log 23). -/
  | detached
  deriving DecidableEq, Repr

/-- The UART's state (R23). -/
structure Uart where
  /-- The guest-writable CTRL bits (R27). -/
  cfg : Word
  /-- The RX FIFO, oldest first (R38). -/
  rx  : List Byte
  /-- The level on the interrupt output pin (R40). -/
  irq : Bool
  deriving DecidableEq, Repr

/-- The SPI controller's state (R25). -/
structure Spi where
  /-- The guest-writable CTRL bits (R27). -/
  cfg : Word
  /-- The RX FIFO, oldest first (R38). -/
  rx  : List Byte
  /-- The TX FIFO, oldest first (R38, R42). -/
  tx  : List Byte
  /-- The level on each chip-select output, line 0 first; true = high = deasserted (R41). -/
  cs  : List Bool
  /-- The level on the interrupt output pin (R40). -/
  irq : Bool
  deriving DecidableEq, Repr

/-- One record of the SPI's exchange history `spi_xfers`: `(t, s.cs, r)` (R244). -/
structure SpiXfer where
  sent     : Byte
  cs       : List Bool
  response : Byte
  deriving DecidableEq, Repr

/-- What a GuestProtocolError records (R101, R102, R203, R242, R301). -/
inductive GuestError where
  | badRead (off : Offset) (w : Width)
  | badWrite (off : Offset) (w : Width) (v : Word)
  | dataReadEmpty
  deriving DecidableEq, Repr

/-- One record of a device's diagnostic log (R39). -/
inductive LogRecord where
  /-- `GuestProtocolError` (R301). -/
  | guestProtocolError (info : GuestError)
  /-- `TransportOverflow` (R302). -/
  | transportOverflow (byte : Byte)
  /-- `SpiRxDrop` (R304). -/
  | spiRxDrop (byte : Byte)
  deriving DecidableEq, Repr

/-- What an event returns to its caller: nothing, a guest read's value, or the can-receive query's answer. -/
inductive Answer where
  | nothing
  | value (v : Word)
  | canReceive (b : Bool)
  deriving DecidableEq, Repr

/-- What an agent outside the block may ask of it next (R20): an event already at its device, laid out in bytes; or a
guest's access by physical address, which R61 routes. -/
inductive Request where
  /-- An event of the device, as bytes (R80), for its instance of that number, counted from 0 (R74). -/
  | event (dev : Device) (inst : Nat) (bytes : List Byte)
  /-- `MemRead(addr, n)` (R11, R61). -/
  | busRead (addr : Nat) (w : Width)
  /-- `MemWrite(addr, n, v)` (R11, R61). -/
  | busWrite (addr : Nat) (w : Width) (v : Word)
  /-- A guest atomic memory operation (R70). -/
  | busAtomic (addr : Nat)
  /-- A guest instruction fetch (R71). -/
  | busFetch (addr : Nat)
  /-- The detach of an instance of a device, which is no event of it (R340, log 23). -/
  | detach (dev : Device) (inst : Nat)
  deriving DecidableEq, Repr

/-- A further UART: "More than one UART or SPI instance may exist, each with its own state and window" (R74). It owns its
parameters, its record of R23, its output history (R209) and its log (R39). -/
structure UartInstance where
  params   : UartParams
  /-- It is attached, and not yet detached (R340). -/
  attached : Bool
  dev      : Uart
  out      : List Byte
  log      : List LogRecord
  deriving DecidableEq, Repr

/-- A further SPI controller (R74). It owns its parameters, its record of R25, its exchange history and the answers its
downstream device is scheduled to give (R244), and its log (R39). -/
structure SpiInstance where
  params    : SpiParams
  /-- It is attached, and not yet detached (R340). -/
  attached  : Bool
  dev       : Spi
  xfers     : List SpiXfer
  log       : List LogRecord
  responses : List Byte
  deriving DecidableEq, Repr

/-- The whole state. `uart` and `spi` are the state of the first UART and of the first SPI controller, on which exec acts;
`moreUarts` and `moreSpis` hold every further instance, on which exec acts through `execAt` (R74, log 16); `params` is
fixed at construction (log 1); the histories, the logs and the answer are observations that no event reads (R39, R209, R244; log 9, log 10); `pending`,
`spiResponses` and `draws` are the model's own fields for the outside world's inputs (log 5, log 6). -/
structure State where
  params       : Params
  uart         : Uart
  spi          : Spi
  /-- The first UART is attached, and not yet detached (R340). -/
  uartAttached : Bool
  /-- The first SPI controller is attached, and not yet detached (R340). -/
  spiAttached  : Bool
  /-- The UART's output history `uart_out` (R209). -/
  uartOut      : List Byte
  /-- The SPI's exchange history `spi_xfers` (R244). -/
  spiXfers     : List SpiXfer
  /-- The UART's diagnostic log (R39). -/
  uartLog      : List LogRecord
  /-- The SPI's diagnostic log (R39). -/
  spiLog       : List LogRecord
  /-- What the last event returned to its caller. -/
  answer       : Answer
  /-- The requests still to be applied, in their one total order (R68). -/
  pending      : List Request
  /-- The answers the SPI downstream device is scheduled to give, one per exchange (R244). -/
  spiResponses : List Byte
  /-- How many exchanges of all the SPI controllers the free value has answered (R244). -/
  draws        : Nat
  /-- The UARTs beside the first, instances 1, 2, … (R74). -/
  moreUarts    : List UartInstance
  /-- The SPI controllers beside the first, instances 1, 2, … (R74). -/
  moreSpis     : List SpiInstance
  deriving DecidableEq, Repr

/-- A UART right after attach: registers zeroed, FIFO empty, `irq` deasserted (R44, R340). -/
def Uart.atAttach : Uart := { cfg := 0#32, rx := [], irq := false }

/-- An SPI controller right after attach: registers zeroed, FIFOs empty, every line high, `irq` deasserted (R44, R340). -/
def Spi.atAttach (n : LineCount) : Spi :=
  { cfg := 0#32, rx := [], tx := [], cs := List.replicate n true, irq := false }

/-- The state after attach: "all registers zeroed and FIFOs empty", `irq` deasserted and every chip-select line high
(R44, R340), for a block constructed with the given parameters, one UART and one SPI controller. -/
def State.attach (p : Params) : State where
  params := p
  uart := Uart.atAttach
  spi := Spi.atAttach p.ncs
  uartAttached := true
  spiAttached := true
  uartOut := []
  spiXfers := []
  uartLog := []
  spiLog := []
  answer := .nothing
  pending := []
  spiResponses := []
  draws := 0
  moreUarts := []
  moreSpis := []

/-- The block right after reset: attached with the reference parameters (R44, R340; log 1). -/
def State.reset : State := State.attach Params.reference

end Sys2Proof.Machine
end

