-- ==== Sys2Proof/Machine/Ops.lean ====
section
/-! DEFINITION. The shared operations: the FIFO primitives (41_fifo.md), the diagnostic log (R39), the answer to a
caller, the two transport adapters' primitives `emit_tx` (R209) and `spi_xfer` (R244), and the construction of a block
(R303). There is no trap entry and no trap return to model: the block has none (R308, R309). -/

namespace Sys2Proof.Machine

/-! ### FIFO buffers (41_fifo.md) -/

/-- `push(q, b)` of R121 on a FIFO of capacity `cap`: on a full FIFO a no-op that reports the drop. -/
def fifoPush (cap : Nat) (q : List Byte) (b : Byte) : List Byte × Bool :=
  if q.length < cap then (q ++ [b], true) else (q, false)

/-- `pop(q)` of R122: the rest and the oldest byte; on an empty FIFO the fault of R127. -/
def fifoPop : List Byte → Except Fault (List Byte × Byte)
  | [] => .error .popEmpty
  | b :: rest => .ok (rest, b)

/-- `occupancy(q)` (R123). -/
def occupancy (q : List Byte) : Nat := q.length

/-- `isEmpty(q)` (R124). -/
def fifoIsEmpty (q : List Byte) : Bool := occupancy q == 0

/-- `isFull(q)` (R125). -/
def fifoIsFull (cap : Nat) (q : List Byte) : Bool := occupancy q == cap

/-- `isAtLeastHalfFull(q)` (R126, R8). -/
def fifoIsAtLeastHalfFull (cap : Nat) (q : List Byte) : Bool := decide (cap / 2 ≤ occupancy q)

/-! ### Answers and diagnostics -/

/-- Return a value, or nothing, to the caller of the event. -/
def State.withAnswer (s : State) (a : Answer) : State := { s with answer := a }

/-- `log(kind, info)` on the UART (R11, R39). -/
def State.logUart (s : State) (r : LogRecord) : State := { s with uartLog := s.uartLog ++ [r] }

/-- `log(kind, info)` on the SPI (R11, R39). -/
def State.logSpi (s : State) (r : LogRecord) : State := { s with spiLog := s.spiLog ++ [r] }

/-! ### Writes of device fields -/

/-- `u.cfg <- v` (R11). -/
def State.setUartCfg (s : State) (v : Word) : State := { s with uart := { s.uart with cfg := v } }

/-- `u.rx <- q` (R11). -/
def State.setUartRx (s : State) (q : List Byte) : State := { s with uart := { s.uart with rx := q } }

/-- `s.cfg <- v` (R11). -/
def State.setSpiCfg (s : State) (v : Word) : State := { s with spi := { s.spi with cfg := v } }

/-- `s.rx <- q` (R11). -/
def State.setSpiRx (s : State) (q : List Byte) : State := { s with spi := { s.spi with rx := q } }

/-- `s.tx <- q` (R11). -/
def State.setSpiTx (s : State) (q : List Byte) : State := { s with spi := { s.spi with tx := q } }

/-! ### The first instance of each device (R74) -/

/-- The first UART. -/
def State.firstUart (s : State) : UartInstance :=
  { params := s.params.uartParams, attached := s.uartAttached, dev := s.uart, out := s.uartOut, log := s.uartLog }

/-- The first SPI controller. -/
def State.firstSpi (s : State) : SpiInstance :=
  { params := s.params.spiParams, attached := s.spiAttached, dev := s.spi, xfers := s.spiXfers, log := s.spiLog,
    responses := s.spiResponses }

/-! ### The transport adapters -/

/-- `emit_tx(b)`: hand a byte to the UART's endpoint, which accepts it within the event (R209). -/
def State.emitTx (s : State) (b : Byte) : State := { s with uartOut := s.uartOut ++ [b] }

/-- The byte the downstream device answers to `t` in the present state: the next scheduled answer, or else a draw of
the free value (R244, log 6). -/
def State.spiResponse (s : State) (t : Byte) : Byte :=
  match s.spiResponses with
  | r :: _ => r
  | [] => Config.spiResponse s.draws t s.spi.cs

/-- The answer is given: it leaves the schedule, or the draw is counted. -/
def State.consumeResponse (s : State) : State :=
  match s.spiResponses with
  | _ :: rest => { s with spiResponses := rest }
  | [] => { s with draws := s.draws + 1 }

/-- `spi_xfer(t)` with the answer `r`: the exchange is recorded with the present chip-select levels (R244). -/
def State.recordXfer (s : State) (t r : Byte) : State :=
  { s with spiXfers := s.spiXfers ++ [{ sent := t, cs := s.spi.cs, response := r }] }

/-- One turn of the loop of R245 after the pop of `t`: exchange `t`, push the response on RX, and log its drop when
RX is full (R246). -/
def State.exchange (s : State) (t : Byte) : State :=
  let r := s.spiResponse t
  let s1 := (s.consumeResponse).recordXfer t r
  match fifoPush spiRxCap s1.spi.rx r with
  | (q, true) => s1.setSpiRx q
  | (q, false) => (s1.setSpiRx q).logSpi (.spiRxDrop r)

/-- The loop of R245 over a TX FIFO that holds the given bytes, oldest first. -/
def State.flushBytes : List Byte → State → State
  | [], s => s
  | t :: rest, s => State.flushBytes rest ((s.setSpiTx rest).exchange t)

/-- `flush(s)`: drain the TX FIFO completely, oldest byte first (R245). -/
def State.flush (s : State) : State := State.flushBytes s.spi.tx s

/-! ### Construction (R26, R303) -/

/-- Why a block cannot be constructed. -/
inductive ConfigurationError where
  /-- An SPI controller with zero or a negative number of chip-select lines (R303). -/
  | noChipSelectLine
  deriving DecidableEq, Repr

/-- Construct and attach a block with `n` chip-select lines: "constructing a controller with zero or negative
chip-select count ... must be rejected at construction, not at use time" (R26, R303, R340). -/
def construct (p : Params) (n : Int) : Except ConfigurationError State :=
  if h : 1 ≤ n.toNat then .ok (State.attach { p with ncs := ⟨n.toNat, h⟩ })
  else .error .noChipSelectLine

/-- An agent outside the block hands it one more request, after those already pending (R68, R350). -/
def State.submit (s : State) (r : Request) : State := { s with pending := s.pending ++ [r] }

end Sys2Proof.Machine
end

