-- ==== Sys2Proof/Machine/Operands.lean ====
section
/-! DEFINITION. The operand forms of R84 and the layouts of DATA (R32, R36): which bits of a written VALUE an event
takes, and the word a DATA read answers. No operand is sign-extended, scaled or shifted (R84). -/

namespace Sys2Proof.Machine

/-- `b = v[7:0]`: the byte of a DATA write; `v[31:8]` is ignored (R32, R36, R84). -/
def dataByte (v : Word) : Byte := v.extractLsb' 0 8

/-- `zext_32(b)` (R9). -/
def zext32 (b : Byte) : Word := b.setWidth 32

/-- `v & WMASK`: what a CTRL write stores; read-only and reserved bits of `v` are discarded (R84, R202, R241). -/
def cfgOfWrite (wmask v : Word) : Word := v &&& wmask

/-- `UART_DATA_INFO & 0xFFFFFF00`: bits 31:8 of every UART DATA read (R32, R203). -/
def dataInfo (p : Params) : Word := p.uartDataInfo &&& 0xFFFFFF00#32

/-- What a UART DATA read that pops `b` answers (R32, R203). -/
def uartDataWord (p : Params) (b : Byte) : Word := dataInfo p ||| zext32 b

end Sys2Proof.Machine
end

