-- ==== Sys2Proof/Machine/Flags.lean ====
section
/-! DEFINITION. The status projection (42_status_projection.md), the interrupt-level engine
(43_interrupt_engine.md), the chip-select router (44_chip_select.md), and the recomputation of the outputs that ends
every event (R105). -/

namespace Sys2Proof.Machine

/-! ### The UART's status flags (R141 to R147) -/

/-- `UART_RX_NEMPTY` (R141). -/
def Uart.rxNempty (u : Uart) : Bool := !fifoIsEmpty u.rx

/-- `UART_RX_HALF` (R142). -/
def Uart.rxHalf (u : Uart) : Bool := fifoIsAtLeastHalfFull uartRxCap u.rx

/-- `UART_RX_FULL` (R143). -/
def Uart.rxFull (u : Uart) : Bool := fifoIsFull uartRxCap u.rx

/-- `UART_TX_EMPTY`, the constant of an unbuffered transmitter (R144). -/
def Uart.txEmpty (_ : Uart) : Bool := true

/-- `UART_TX_NHALF`, a constant (R144). -/
def Uart.txNhalf (_ : Uart) : Bool := true

/-- `UART_TX_FULL`, a constant (R144). -/
def Uart.txFull (_ : Uart) : Bool := false

/-- `UART_RX_OVER`, which reads 0 in every state (R145). -/
def Uart.rxOver (_ : Uart) : Bool := false

/-- `UART_TX_BUSY`, which reads 0 always (R146). -/
def Uart.txBusy (_ : Uart) : Bool := false

/-- `uart_status(u)` (R147). -/
def uartStatus (l : UartLayout) (u : Uart) : Word :=
  flagBit l.rxNempty u.rxNempty ||| flagBit l.rxHalf u.rxHalf ||| flagBit l.rxFull u.rxFull |||
    flagBit l.txEmpty u.txEmpty ||| flagBit l.txNhalf u.txNhalf ||| flagBit l.txFull u.txFull |||
    flagBit l.rxOver u.rxOver ||| flagBit l.txBusy u.txBusy

/-- `uart_ctrl_value(u) = u.cfg | uart_status(u)` (R140, R200). -/
def uartCtrlValue (l : UartLayout) (u : Uart) : Word := u.cfg ||| uartStatus l u

/-! ### The SPI's status flags (R148 to R154) -/

/-- `SPI_RX_AVAIL` (R148). -/
def Spi.rxAvail (s : Spi) : Bool := !fifoIsEmpty s.rx

/-- `SPI_TX_EMPTY` (R149). -/
def Spi.txEmpty (s : Spi) : Bool := fifoIsEmpty s.tx

/-- `SPI_TX_NHALF` (R150). -/
def Spi.txNhalf (s : Spi) : Bool := !fifoIsAtLeastHalfFull spiTxCap s.tx

/-- `SPI_TX_FULL` (R151). -/
def Spi.txFull (s : Spi) : Bool := fifoIsFull spiTxCap s.tx

/-- `SPI_BUSY` (R152). -/
def Spi.busy (s : Spi) : Bool := !fifoIsEmpty s.tx

/-- `SPI_FIFO_SIZE = log2(SPI_TX_CAP)`, hard-wired (R129, R153). -/
def spiFifoSize : Word := BitVec.ofNat 32 (Nat.log2 spiTxCap)

/-- `spi_status(s)` (R154). -/
def spiStatus (l : SpiLayout) (s : Spi) : Word :=
  flagBit l.rxAvail s.rxAvail ||| flagBit l.txEmpty s.txEmpty ||| flagBit l.txNhalf s.txNhalf |||
    flagBit l.txFull s.txFull ||| (spiFifoSize <<< l.fifoSize.lsb) ||| flagBit l.busy s.busy

/-- `s.cfg | spi_status(s)` (R140, R240). -/
def spiCtrlValue (l : SpiLayout) (s : Spi) : Word := s.cfg ||| spiStatus l s

/-! ### Interrupt enables and levels -/

/-- `uart_ie(u)`: the interrupt-enable view of `cfg` (R37). -/
def uartIe (l : UartLayout) (u : Uart) : Word :=
  u.cfg &&& (bit l.irqRxNempty ||| bit l.irqTxEmpty)

/-- `spi_ie(s)` (R37). -/
def spiIe (l : SpiLayout) (s : Spi) : Word :=
  s.cfg &&& (bit l.irqRxAvail ||| bit l.irqTxEmpty ||| bit l.irqTxNhalf)

/-- The UART's (enable, condition) pairs: RX watermark and TX watermark (R161). -/
def uartIrqPairs (l : UartLayout) (u : Uart) : List (Bool × Bool) :=
  [((uartIe l u).getLsbD l.irqRxNempty, u.rxNempty), ((uartIe l u).getLsbD l.irqTxEmpty, u.txEmpty)]

/-- The SPI's pairs: RX-available, TX-empty and TX-below-half (R163). -/
def spiIrqPairs (l : SpiLayout) (s : Spi) : List (Bool × Bool) :=
  [((spiIe l s).getLsbD l.irqRxAvail, s.rxAvail), ((spiIe l s).getLsbD l.irqTxEmpty, s.txEmpty),
    ((spiIe l s).getLsbD l.irqTxNhalf, s.txNhalf)]

/-- "interrupt level = OR over all configured (C, E_C) pairs of E_C AND C" (R160). -/
def irqLevel (pairs : List (Bool × Bool)) : Bool :=
  pairs.any fun pair => pair.1 && pair.2

/-- `uart_irq_level(u)` (R162). -/
def uartIrqLevel (l : UartLayout) (u : Uart) : Bool := irqLevel (uartIrqPairs l u)

/-- `spi_irq_level(s)` (R164). -/
def spiIrqLevel (l : SpiLayout) (s : Spi) : Bool := irqLevel (spiIrqPairs l s)

/-! ### The chip-select router -/

/-- `cs_index`: the highest-numbered select bit that is set wins; with none set the index is 0 (R181). -/
def csIndex (sel2 sel1 _sel0 : Bool) : Nat :=
  if sel2 then 2 else if sel1 then 1 else 0

/-- `selected(s)`: the line the configuration selects, if it is enabled and exists (R180, R182, R183). -/
def csSelected (p : Params) (cfg : Word) : Option Nat :=
  let k := csIndex (cfg.getLsbD p.spi.csSel2) (cfg.getLsbD p.spi.csSel1) (cfg.getLsbD p.spi.csSel0)
  if cfg.getLsbD p.spi.csEn ∧ k < p.ncs then some k else none

/-- The levels `update_cs` leaves: "deassert all lines", "then assert exactly the selected line" (R184). -/
def csLevels (p : Params) (cfg : Word) : List Bool :=
  match csSelected p cfg with
  | some k => (List.replicate p.ncs true).set k false
  | none => List.replicate p.ncs true

/-- `update_cs(s)`: the pins take the final levels only (R184, R185). -/
def Spi.updateCs (p : Params) (s : Spi) : Spi := { s with cs := csLevels p s.cfg }

/-! ### The end of every event (R104, R105) -/

/-- `drive_irq(level)` on the UART (R166). -/
def Uart.driveIrq (u : Uart) (level : Bool) : Uart := { u with irq := level }

/-- `drive_irq(level)` on the SPI (R166). -/
def Spi.driveIrq (s : Spi) (level : Bool) : Spi := { s with irq := level }

/-- `recompute_outputs(u)` (R105). -/
def Uart.recompute (p : Params) (u : Uart) : Uart := u.driveIrq (uartIrqLevel p.uart u)

/-- `recompute_outputs(s)`: first the chip-selects, then the interrupt level (R105). -/
def Spi.recompute (p : Params) (s : Spi) : Spi :=
  let s1 := s.updateCs p
  s1.driveIrq (spiIrqLevel p.spi s1)

/-- The recomputation at the end of every UART event (R105, R165). -/
def State.recomputeUart (s : State) : State := { s with uart := s.uart.recompute s.params }

/-- The recomputation at the end of every SPI event (R105, R165). -/
def State.recomputeSpi (s : State) : State := { s with spi := s.spi.recompute s.params }

/-- The inputs of the platform's interrupt controller that the block drives, with their levels, for every attached
instance (R169, R308, R340). -/
def State.irqInputs (s : State) : List (Nat × Bool) :=
  ((s.firstUart :: s.moreUarts).filter (·.attached)).map (fun u => (u.params.irqId, u.dev.irq)) ++
    ((s.firstSpi :: s.moreSpis).filter (·.attached)).map fun c => (c.params.irqId, c.dev.irq)

end Sys2Proof.Machine
end

