-- ==== Sys2Proof/Machine/RegisterDecoder.lean ====
section
/-! DEFINITION. The invalid accesses of both devices (40_register_decoder.md, R101 and R102): logged, answered
benignly, never a fault (R103). -/

namespace Sys2Proof.Machine

/-- `UART.RD_INVALID(off, w)` (R101). -/
def execUartRdInvalid (off : Offset) (w : Width) (s : State) : Host.Outcome State Fault Refusal :=
  .next (((s.logUart (.guestProtocolError (.badRead off w))).recomputeUart).withAnswer (.value 0#32))

/-- `UART.WR_INVALID(off, w, v)` (R102): `v` is discarded whole. -/
def execUartWrInvalid (off : Offset) (w : Width) (v : Word) (s : State) : Host.Outcome State Fault Refusal :=
  .next (((s.logUart (.guestProtocolError (.badWrite off w v))).recomputeUart).withAnswer .nothing)

/-- `SPI.RD_INVALID(off, w)` (R101). -/
def execSpiRdInvalid (off : Offset) (w : Width) (s : State) : Host.Outcome State Fault Refusal :=
  .next (((s.logSpi (.guestProtocolError (.badRead off w))).recomputeSpi).withAnswer (.value 0#32))

/-- `SPI.WR_INVALID(off, w, v)` (R102): `v` is discarded whole. -/
def execSpiWrInvalid (off : Offset) (w : Width) (v : Word) (s : State) : Host.Outcome State Fault Refusal :=
  .next (((s.logSpi (.guestProtocolError (.badWrite off w v))).recomputeSpi).withAnswer .nothing)

end Sys2Proof.Machine
end

