-- ==== Sys2Proof/Machine/SpiOps.lean ====
section
/-! DEFINITION. The SPI's operations (46_spi_ops.md) and its reset (R341). `SPI_EN`, the clock mode, the prescaler and
the divider are stored and read back only (R248, R249). -/

namespace Sys2Proof.Machine

/-- `SPI.RD_CTRL` (R240). -/
def execSpiRdCtrl (s : State) : Host.Outcome State Fault Refusal :=
  .next ((s.recomputeSpi).withAnswer (.value (spiCtrlValue s.params.spi s.spi)))

/-- `SPI.WR_CTRL v` (R241). -/
def execSpiWrCtrl (v : Word) (s : State) : Host.Outcome State Fault Refusal :=
  .next (((s.setSpiCfg (cfgOfWrite s.params.spi.wmask v)).recomputeSpi).withAnswer .nothing)

/-- `SPI.RD_DATA` (R242). -/
def execSpiRdData (s : State) : Host.Outcome State Fault Refusal :=
  if fifoIsEmpty s.spi.rx then
    .next (((s.logSpi (.guestProtocolError .dataReadEmpty)).recomputeSpi).withAnswer (.value 0#32))
  else
    match fifoPop s.spi.rx with
    | .error f => .fault f
    | .ok (q, b) => .next (((s.setSpiRx q).recomputeSpi).withAnswer (.value (zext32 b)))

/-- `SPI.WR_DATA v` (R243): push on TX, flush, recompute. -/
def execSpiWrData (v : Word) (s : State) : Host.Outcome State Fault Refusal :=
  .next ((((s.setSpiTx (fifoPush spiTxCap s.spi.tx (dataByte v)).1).flush).recomputeSpi).withAnswer .nothing)

/-- `SPI.EV_RESET` (R341): N is unchanged, and the log is not cleared (R44). -/
def execSpiEvReset (s : State) : Host.Outcome State Fault Refusal :=
  .next (((((s.setSpiCfg 0#32).setSpiRx []).setSpiTx []).recomputeSpi).withAnswer .nothing)

end Sys2Proof.Machine
end

