-- ==== Sys2Proof/Machine/UartOps.lean ====
section
/-! DEFINITION. The UART's operations (45_uart_ops.md) and its reset (R341). No field of `cfg` but the two interrupt
enables is read by any event other than a CTRL read (R207, R208). -/

namespace Sys2Proof.Machine

/-- `UART.RD_CTRL` (R201). -/
def execUartRdCtrl (s : State) : Host.Outcome State Fault Refusal :=
  .next ((s.recomputeUart).withAnswer (.value (uartCtrlValue s.params.uart s.uart)))

/-- `UART.WR_CTRL v` (R202). -/
def execUartWrCtrl (v : Word) (s : State) : Host.Outcome State Fault Refusal :=
  .next (((s.setUartCfg (cfgOfWrite s.params.uart.wmask v)).recomputeUart).withAnswer .nothing)

/-- `UART.RD_DATA` (R203). -/
def execUartRdData (s : State) : Host.Outcome State Fault Refusal :=
  if fifoIsEmpty s.uart.rx then
    .next (((s.logUart (.guestProtocolError .dataReadEmpty)).recomputeUart).withAnswer
      (.value (dataInfo s.params)))
  else
    match fifoPop s.uart.rx with
    | .error f => .fault f
    | .ok (q, b) => .next (((s.setUartRx q).recomputeUart).withAnswer (.value (uartDataWord s.params b)))

/-- `UART.WR_DATA v` (R204). -/
def execUartWrData (v : Word) (s : State) : Host.Outcome State Fault Refusal :=
  .next (((s.emitTx (dataByte v)).recomputeUart).withAnswer .nothing)

/-- `UART.EV_RX_DELIVER b` (R205). -/
def execUartEvRxDeliver (b : Byte) (s : State) : Host.Outcome State Fault Refusal :=
  match fifoPush uartRxCap s.uart.rx b with
  | (q, true) => .next (((s.setUartRx q).recomputeUart).withAnswer .nothing)
  | (q, false) =>
    .next ((((s.setUartRx q).logUart (.transportOverflow b)).recomputeUart).withAnswer .nothing)

/-- `UART.Q_CAN_RECEIVE` (R206). -/
def execUartQCanReceive (s : State) : Host.Outcome State Fault Refusal :=
  .next ((s.recomputeUart).withAnswer (.canReceive (!fifoIsFull uartRxCap s.uart.rx)))

/-- `UART.EV_RESET` (R341): the log is not cleared, since it is not state (R44). -/
def execUartEvReset (s : State) : Host.Outcome State Fault Refusal :=
  .next ((((s.setUartCfg 0#32).setUartRx []).recomputeUart).withAnswer .nothing)

end Sys2Proof.Machine
end

