-- ==== Sys2Proof/Machine/Dispatch.lean ====
section
/-! DEFINITION. Which meaning each row of the opcode table has. -/

namespace Sys2Proof.Machine

def exec (i : Instr) (s : State) : Host.Outcome State Fault Refusal :=
  match i with
  | .uartRdCtrl => Sys2Proof.Machine.execUartRdCtrl s
  | .uartRdData => Sys2Proof.Machine.execUartRdData s
  | .uartWrCtrl v => Sys2Proof.Machine.execUartWrCtrl v s
  | .uartWrData v => Sys2Proof.Machine.execUartWrData v s
  | .uartRdInvalid off w => Sys2Proof.Machine.execUartRdInvalid off w s
  | .uartWrInvalid off w v => Sys2Proof.Machine.execUartWrInvalid off w v s
  | .uartEvReset => Sys2Proof.Machine.execUartEvReset s
  | .uartEvRxDeliver b => Sys2Proof.Machine.execUartEvRxDeliver b s
  | .uartQCanReceive => Sys2Proof.Machine.execUartQCanReceive s
  | .spiRdCtrl => Sys2Proof.Machine.execSpiRdCtrl s
  | .spiRdData => Sys2Proof.Machine.execSpiRdData s
  | .spiWrCtrl v => Sys2Proof.Machine.execSpiWrCtrl v s
  | .spiWrData v => Sys2Proof.Machine.execSpiWrData v s
  | .spiRdInvalid off w => Sys2Proof.Machine.execSpiRdInvalid off w s
  | .spiWrInvalid off w v => Sys2Proof.Machine.execSpiWrInvalid off w v s
  | .spiEvReset => Sys2Proof.Machine.execSpiEvReset s

end Sys2Proof.Machine
end

