-- ==== Sys2Proof/Machine/Instances.lean ====
section
/-! DEFINITION. Several instances of a device: "More than one UART or SPI instance may exist, each with its own state and
window" (R74, log 16). Instance 0 is the one whose fields State holds at its top; the further ones are numbered on from 1.
exec acts on instance 0; `State.focus` exchanges another instance with it and, since it is its own inverse, back. A
device that has been detached keeps its number, and no event applies to it (R340, log 23). -/

namespace Sys2Proof.Machine

/-! ### An instance by its number -/

/-- The UART of the given number, if it exists. -/
def State.uartAt (s : State) : Nat → Option UartInstance
  | 0 => some s.firstUart
  | k + 1 => s.moreUarts[k]?

/-- The SPI controller of the given number, if it exists. -/
def State.spiAt (s : State) : Nat → Option SpiInstance
  | 0 => some s.firstSpi
  | k + 1 => s.moreSpis[k]?

/-- The device has an instance of that number, attached still or detached since. -/
def State.hasInstance (s : State) (dev : Device) (inst : Nat) : Bool :=
  match dev with
  | .uart => decide (inst ≤ s.moreUarts.length)
  | .spi => decide (inst ≤ s.moreSpis.length)

/-- The device has an instance of that number that is attached (R340). -/
def State.isAttached (s : State) (dev : Device) (inst : Nat) : Bool :=
  match dev with
  | .uart => (s.uartAt inst).any (·.attached)
  | .spi => (s.spiAt inst).any (·.attached)

/-! ### Bringing an instance into first place -/

/-- The state with the given UART as its first. -/
def State.putUart (s : State) (u : UartInstance) : State :=
  { s with params := s.params.withUart u.params, uart := u.dev, uartAttached := u.attached, uartOut := u.out,
           uartLog := u.log }

/-- The state with the given SPI controller as its first. -/
def State.putSpi (s : State) (c : SpiInstance) : State :=
  { s with params := s.params.withSpi c.params, spi := c.dev, spiAttached := c.attached, spiXfers := c.xfers,
           spiLog := c.log, spiResponses := c.responses }

/-- Exchange the first UART and instance `k + 1`. -/
def State.swapUart (s : State) (k : Nat) : State :=
  match s.moreUarts[k]? with
  | some u => { s.putUart u with moreUarts := s.moreUarts.set k s.firstUart }
  | none => s

/-- Exchange the first SPI controller and instance `k + 1`. -/
def State.swapSpi (s : State) (k : Nat) : State :=
  match s.moreSpis[k]? with
  | some c => { s.putSpi c with moreSpis := s.moreSpis.set k s.firstSpi }
  | none => s

/-- Exchange the first instance of the device and the one of that number. -/
def State.focus (s : State) (dev : Device) (inst : Nat) : State :=
  match dev, inst with
  | _, 0 => s
  | .uart, k + 1 => s.swapUart k
  | .spi, k + 1 => s.swapSpi k

/-! ### Windows -/

/-- The base of an instance's window, which it decodes while it is attached (R61, R340). -/
def windowOf (attached : Bool) (base : Nat) : Option Nat := if attached then some base else none

/-- The windows of the UARTs, by instance (R61). -/
def State.uartWindows (s : State) : List (Option Nat) :=
  (s.firstUart :: s.moreUarts).map fun u => windowOf u.attached u.params.base

/-- The windows of the SPI controllers, by instance (R61). -/
def State.spiWindows (s : State) : List (Option Nat) :=
  (s.firstSpi :: s.moreSpis).map fun c => windowOf c.attached c.params.base

/-- A window meets none of those that start at the given bases. -/
def windowApart (size base : Nat) (bases : List Nat) : Bool :=
  bases.all fun b => decide (base + size ≤ b) || decide (b + size ≤ base)

/-- No two of the windows that start at the given bases meet (log 11). -/
def windowsApart (size : Nat) : List Nat → Bool
  | [] => true
  | base :: bases => windowApart size base bases && windowsApart size bases

/-- The parameters of every instance are a configuration of the block: layouts R28 allows, a window that holds both
registers and whose offsets FIELD can spell (R61, R80), and windows of the attached instances that do not meet (log 11). -/
def State.configWf (s : State) : Bool :=
  s.params.wf && s.moreUarts.all (fun u => u.params.layout.wf) && s.moreSpis.all (fun c => c.params.layout.wf) &&
    windowsApart s.params.regionSize ((s.uartWindows ++ s.spiWindows).filterMap id)

/-! ### Attach and detach (R44, R303, R340) -/

/-- Attach a further UART, with registers zeroed, FIFO empty and `irq` deasserted. -/
def State.attachUart (s : State) (p : UartParams) : State :=
  { s with moreUarts := s.moreUarts ++ [{ params := p, attached := true, dev := Uart.atAttach, out := [], log := [] }] }

/-- Attach a further SPI controller with `n` chip-select lines, registers zeroed, FIFOs empty, every line high and `irq`
deasserted; a count of zero or less is rejected (R26, R303). -/
def State.attachSpi (s : State) (p : SpiParams) (n : Int) : Except ConfigurationError State :=
  if h : 1 ≤ n.toNat then
    .ok { s with moreSpis := s.moreSpis ++ [{
      params := { p with ncs := ⟨n.toNat, h⟩ }
      attached := true
      dev := Spi.atAttach ⟨n.toNat, h⟩
      xfers := [], log := [], responses := [] }] }
  else .error .noChipSelectLine

/-- Detach the first instance of the device: "state is destroyed when the device is detached" (R340). What is left in the
fields is the state at attach, which nothing reads any more (DESIGN CHOICE, log 23); the histories and the log, which are
no state (R39), stay. -/
def State.detachFirst (s : State) (dev : Device) : State :=
  match dev with
  | .uart => { s with uart := Uart.atAttach, uartAttached := false }
  | .spi => { s with spi := Spi.atAttach s.params.ncs, spiAttached := false }

/-- Detach an instance of the device (R340). -/
def State.detach (s : State) (dev : Device) (inst : Nat) : State :=
  ((s.focus dev inst).detachFirst dev).focus dev inst

end Sys2Proof.Machine
end

