-- ==== Sys2Proof/Machine/Fetch.lean ====
section
/-! DEFINITION. The next event: the pending request at the front is routed to its device instance (R61, R74), decoded
(R100), and leaves the queue; and running an instruction on an instance. -/

namespace Sys2Proof.Machine

/-- The first of the windows, numbered from `inst`, that holds the physical address: its number and the offset in it. -/
def routeIn (size addr inst : Nat) : List (Option Nat) → Option (Nat × Offset)
  | [] => none
  | none :: windows => routeIn size addr (inst + 1) windows
  | some base :: windows =>
    if base ≤ addr ∧ addr < base + size then some (inst, BitVec.ofNat 24 (addr - base))
    else routeIn size addr (inst + 1) windows

/-- The device instance whose window holds the physical address, and the offset in it (R61, R74). -/
def route (s : State) (addr : Nat) : Option (Device × Nat × Offset) :=
  match routeIn s.params.regionSize addr 0 s.uartWindows with
  | some (inst, off) => some (.uart, inst, off)
  | none =>
    match routeIn s.params.regionSize addr 0 s.spiWindows with
    | some (inst, off) => some (.spi, inst, off)
    | none => none

/-- The bytes of a guest read of `w` bytes at an offset (R80, R90). -/
def readEventBytes (off : Offset) (w : Width) : List Byte :=
  bytesOfWord (mkDescriptor 0#2 w off)

/-- The bytes of a guest write of the VALUE `v` (R80, R90). -/
def writeEventBytes (off : Offset) (w : Width) (v : Word) : List Byte :=
  bytesOfWord (mkDescriptor 1#2 w off) ++ bytesOfWord v

/-- Why an event can't reach an instance: it is detached, or there was never one of that number (R340, R74). -/
def State.absence (s : State) (dev : Device) (inst : Nat) : Refusal :=
  if s.hasInstance dev inst then .detached else .noSuchInstance

/-- What a request asks for: an event, as bytes, of an instance of a device; or the detach of one. -/
inductive Asked where
  | event (dev : Device) (inst : Nat) (bytes : List Byte)
  | detach (dev : Device) (inst : Nat)
  deriving DecidableEq, Repr

/-- What a request asks for, of an instance that is attached, or why it is refused (R61, R70, R71, R74, R340). -/
def requestAsked (s : State) : Request → Except Refusal Asked
  | .event dev inst bytes =>
    if s.isAttached dev inst then .ok (.event dev inst bytes) else .error (s.absence dev inst)
  | .busRead addr w =>
    match route s addr with
    | some (dev, inst, off) => .ok (.event dev inst (readEventBytes off w))
    | none => .error .outsideWindows
  | .busWrite addr w v =>
    match route s addr with
    | some (dev, inst, off) => .ok (.event dev inst (writeEventBytes off w v))
    | none => .error .outsideWindows
  | .busAtomic addr =>
    match route s addr with
    | some _ => .error .atomicAccess
    | none => .error .outsideWindows
  | .busFetch addr =>
    match route s addr with
    | some _ => .error .instructionFetch
    | none => .error .outsideWindows
  | .detach dev inst =>
    if s.isAttached dev inst then .ok (.detach dev inst) else .error (s.absence dev inst)

/-- What the front of the queue holds. -/
inductive Fetched where
  /-- No request is pending: the block is quiescent and takes no step by itself (R20, R351). -/
  | idle
  /-- The request is refused. -/
  | refused (r : Refusal)
  /-- The request is the instruction `i` on the instance `inst` of its device; `s` is the state without it. -/
  | run (inst : Nat) (i : Instr) (s : State)
  /-- The request is the detach of the instance `inst` of `dev`; `s` is the state without it. -/
  | detach (dev : Device) (inst : Nat) (s : State)
  deriving DecidableEq, Repr

/-- A request, fetched: `rest` is what stays in the queue. -/
def fetchRequest (s : State) (r : Request) (rest : List Request) : Fetched :=
  match requestAsked s r with
  | .error e => .refused e
  | .ok (.detach dev inst) => .detach dev inst { s with pending := rest }
  | .ok (.event dev inst bytes) =>
    match decode s.params.regionSize dev bytes with
    | .error e => .refused (.undecoded e)
    | .ok (i, _) => .run inst i { s with pending := rest }

/-- Take the request at the front of the queue. -/
def fetch (s : State) : Fetched :=
  match s.pending with
  | [] => .idle
  | r :: rest => fetchRequest s r rest

/-- Run an instruction on an instance of its device: exec with that instance in first place, and back (R74, log 16). -/
def execAt (inst : Nat) (i : Instr) (s : State) : Host.Outcome State Fault Refusal :=
  match exec i (s.focus i.device inst) with
  | .next t => .next (t.focus i.device inst)
  | .fault f => .fault f
  | .refused r => .refused r

/-- The state with the first instance of the device attached. -/
def State.withAttached (s : State) (dev : Device) : State :=
  match dev with
  | .uart => { s with uartAttached := true }
  | .spi => { s with spiAttached := true }

/-- Put the event of a table word before all pending requests, for the first instance of the device it is to reach,
which an event can reach only while it is attached (R340). -/
def State.withEvent (s : State) (dev : Device) (nbits w : Nat) : State :=
  { s.withAttached dev with pending := .event dev 0 (tableBytes nbits w) :: s.pending }

end Sys2Proof.Machine
end

