-- ==== Sys2Proof/Machine/Step.lean ====
section
/-! DEFINITION. One step of the block: the next pending request is applied, as one atomic event (R12, R67, R68). -/

namespace Sys2Proof.Machine

/-- Apply the next event, or detach a device (R340; log 23). With none pending nothing happens: "a device never takes a step
by itself" (R20; log 5). -/
def step (s : State) : Host.Outcome State Fault Refusal :=
  match fetch s with
  | .idle => .next s
  | .refused r => .refused r
  | .run inst i s' => execAt inst i s'
  | .detach dev inst s' => .next (s'.detach dev inst)

/-- The state whose next step applies the event of a table word. The word names no device (R80), so it is addressed to
the first UART, as in `decodeTableWord` (DESIGN CHOICE, log 7); `State.withEvent` addresses either device. -/
def State.withFetchWord (s : State) (nbits w : Nat) : State := s.withEvent .uart nbits w

end Sys2Proof.Machine
end

