-- ==== Sys2Proof/Machine/Asm.lean ====
section
/-! DEFINITION. The spec's own text form of events: the lines of R90 and the pseudo-instructions of R91, as terms, with
the event each line spells, the text it is written as, and the assembler that reads such text (log 19). -/

namespace Sys2Proof.Machine

/-- A line of R90. -/
inductive AsmLine where
  /-- `rd <off>, <w>`. -/
  | rd (off : Offset) (w : Width)
  /-- `wr <off>, <w>, <v>`. -/
  | wr (off : Offset) (w : Width) (v : Word)
  /-- `ev.reset`. -/
  | evReset
  /-- `ev.deliver <b>`. -/
  | evDeliver (b : Byte)
  /-- `q.canrx`. -/
  | qCanrx
  deriving DecidableEq, Repr

/-- The descriptor a line spells (R90). -/
def AsmLine.descriptor : AsmLine → Word
  | .rd off w => (0#32 <<< 30) ||| (w.setWidth 32 <<< 24) ||| off.setWidth 32
  | .wr off w _ => (1#32 <<< 30) ||| (w.setWidth 32 <<< 24) ||| off.setWidth 32
  | .evReset => 0x80000000#32
  | .evDeliver _ => 0x80000001#32
  | .qCanrx => 0x80000002#32

/-- The payload a line spells (R90). -/
def AsmLine.payload : AsmLine → List Byte
  | .rd _ _ => []
  | .wr _ _ v => bytesOfWord v
  | .evReset => []
  | .evDeliver b => [b]
  | .qCanrx => []

/-- The line as a request to the device that a `.device` line selected (R90). DESIGN CHOICE (log 19): such a line names no
instance, and the model takes the first. -/
def AsmLine.request (dev : Device) (line : AsmLine) : Request :=
  .event dev 0 (bytesOfWord line.descriptor ++ line.payload)

/-- The line's text, numbers in decimal (R90). -/
def AsmLine.text : AsmLine → String
  | .rd off w => "rd " ++ toString off.toNat ++ ", " ++ toString w.toNat
  | .wr off w v => "wr " ++ toString off.toNat ++ ", " ++ toString w.toNat ++ ", " ++ toString v.toNat
  | .evReset => "ev.reset"
  | .evDeliver b => "ev.deliver " ++ toString b.toNat
  | .qCanrx => "q.canrx"

/-! ### Pseudo-instructions (R91) -/

/-- `rd.ctrl`. -/
def asmRdCtrl : AsmLine := .rd 0#24 4#6

/-- `rd.data`. -/
def asmRdData : AsmLine := .rd 4#24 4#6

/-- `wr.ctrl <v>`. -/
def asmWrCtrl (v : Word) : AsmLine := .wr 0#24 4#6 v

/-- `wr.data <v>`. -/
def asmWrData (v : Word) : AsmLine := .wr 4#24 4#6 v

/-- `uart.putc <b>`. -/
def asmUartPutc (b : Byte) : List AsmLine := [asmWrData (zext32 b)]

/-- `uart.getc`, a guest loop: the line after a CTRL read that answered `ctrl` (R91). -/
def asmUartGetcNext (l : UartLayout) (ctrl : Word) : AsmLine :=
  if ctrl.getLsbD l.rxNempty then asmRdData else asmRdCtrl

/-- `spi.xfer <b>`. -/
def asmSpiXfer (b : Byte) : List AsmLine := [asmWrData (zext32 b), asmRdData]

/-- `SELMASK`: the three select bits and CS_EN (R91). -/
def asmSelMask (l : SpiLayout) : Word :=
  bit l.csSel0 ||| bit l.csSel1 ||| bit l.csSel2 ||| bit l.csEn

/-- `sel(<i>)` for the lines 0, 1 and 2 that a select field can name (R91). -/
def asmSel (l : SpiLayout) (i : Fin 3) : Word :=
  match i with
  | 0 => 0#32
  | 1 => bit l.csSel1
  | 2 => bit l.csSel2

/-- `spi.select <cfg>, <i>`. -/
def asmSpiSelect (l : SpiLayout) (cfg : Word) (i : Fin 3) : AsmLine :=
  asmWrCtrl ((cfg &&& ~~~asmSelMask l) ||| bit l.csEn ||| asmSel l i)

/-- `spi.deselect <cfg>`. -/
def asmSpiDeselect (l : SpiLayout) (cfg : Word) : AsmLine :=
  asmWrCtrl (cfg &&& ~~~bit l.csEn)

/-! ### Reading text (R90) -/

/-- The value of a digit in a base. -/
def digitValue (base : Nat) (c : Char) : Option Nat :=
  let d :=
    if '0' ≤ c ∧ c ≤ '9' then c.toNat - '0'.toNat
    else if 'a' ≤ c ∧ c ≤ 'f' then c.toNat - 'a'.toNat + 10
    else if 'A' ≤ c ∧ c ≤ 'F' then c.toNat - 'A'.toNat + 10
    else base
  if d < base then some d else none

/-- The number some digits spell after the digits that gave `acc`. -/
def readDigits (base acc : Nat) : List Char → Option Nat
  | [] => some acc
  | c :: cs =>
    match digitValue base c with
    | some d => readDigits base (acc * base + d) cs
    | none => none

/-- A decimal number of one digit or more. -/
def readDecimal : List Char → Option Nat
  | [] => none
  | cs => readDigits 10 0 cs

/-- "Numbers are hexadecimal with `0x` or decimal" (R90). -/
def readNumber : List Char → Option Nat
  | '0' :: 'x' :: c :: cs => readDigits 16 0 (c :: cs)
  | cs => readDecimal cs

/-- A number that fits in `n` bits. -/
def readBits (n : Nat) (cs : List Char) : Option (BitVec n) :=
  match readNumber cs with
  | some v => if v < 2 ^ n then some (BitVec.ofNat n v) else none
  | none => none

/-- A width: "`<w>` is decimal" (R90). -/
def readWidth (cs : List Char) : Option Width :=
  match readDecimal cs with
  | some v => if v < 2 ^ 6 then some (BitVec.ofNat 6 v) else none
  | none => none

/-- The words of a line; blanks and commas separate them. `cur` is the word being read, its last letter first. -/
def splitWords (cur : List Char) : List Char → List (List Char)
  | [] => if cur.isEmpty then [] else [cur.reverse]
  | c :: cs =>
    if c = ' ' ∨ c = '\t' ∨ c = ',' then (if cur.isEmpty then [] else [cur.reverse]) ++ splitWords [] cs
    else splitWords (c :: cur) cs

/-- The words of a line without its comment, which `;` starts, and without its record `-> x` of a read's value (R90).
DESIGN CHOICE (log 19): R90 gives the record only after a read; here `->` and all after it is dropped on every line, so a
line that is no read may carry one, and a line that holds nothing else is blank. -/
def asmWords (text : String) : List (List Char) :=
  (splitWords [] (text.toList.takeWhile (· ≠ ';'))).takeWhile (· ≠ "->".toList)

/-- What a line of text says. -/
inductive AsmItem where
  /-- An empty line. -/
  | blank
  /-- `.device uart`, or `.device spi N=<n>` with the number n it writes. -/
  | device (dev : Device) (ncs : Option Nat)
  /-- Events, one after another. -/
  | lines (ls : List AsmLine)
  /-- `uart.getc`, a loop of the guest (`asmUartGetcNext`). -/
  | getcLoop
  deriving DecidableEq, Repr

/-- Read the operands of a line whose first word is given. DESIGN CHOICE (log 19): the pseudo-instructions of R91 that
begin with `uart.` and `spi.` are read on any line, whichever device is selected, and expand to accesses of the selected
device; R91 only notes `UART` or `SPI` beside them. -/
def readOperands (l : SpiLayout) (op : String) (args : List (List Char)) : Option AsmItem :=
  match op, args with
  | "rd", [off, w] => do return .lines [.rd (← readBits 24 off) (← readWidth w)]
  | "wr", [off, w, v] => do return .lines [.wr (← readBits 24 off) (← readWidth w) (← readBits 32 v)]
  | "ev.reset", [] => some (.lines [.evReset])
  | "ev.deliver", [b] => do return .lines [.evDeliver (← readBits 8 b)]
  | "q.canrx", [] => some (.lines [.qCanrx])
  | "rd.ctrl", [] => some (.lines [asmRdCtrl])
  | "rd.data", [] => some (.lines [asmRdData])
  | "wr.ctrl", [v] => do return .lines [asmWrCtrl (← readBits 32 v)]
  | "wr.data", [v] => do return .lines [asmWrData (← readBits 32 v)]
  | "uart.putc", [b] => do return .lines (asmUartPutc (← readBits 8 b))
  | "uart.getc", [] => some .getcLoop
  | "spi.xfer", [b] => do return .lines (asmSpiXfer (← readBits 8 b))
  | "spi.select", [cfg, i] => do
    let c ← readBits 32 cfg
    match readNumber i with
    | some 0 => return .lines [asmSpiSelect l c 0]
    | some 1 => return .lines [asmSpiSelect l c 1]
    | some 2 => return .lines [asmSpiSelect l c 2]
    | _ => none
  | "spi.deselect", [cfg] => do return .lines [asmSpiDeselect l (← readBits 32 cfg)]
  | ".device", [dev] => if dev = "uart".toList then some (.device .uart none) else none
  | ".device", [dev, 'N' :: '=' :: n] =>
    if dev = "spi".toList then do return .device .spi (some (← readNumber n)) else none
  | _, _ => none

/-- Read a line of text; nothing where it is no line of R90 or R91. -/
def readLine (l : SpiLayout) (text : String) : Option AsmItem :=
  match asmWords text with
  | [] => some .blank
  | op :: args => readOperands l (String.ofList op) args

/-- Assemble lines of text for the selected device: the requests they make, in order. The loop `uart.getc` is control
flow of the guest, and is no event (R91). DESIGN CHOICE (log 19): the `N=<n>` of a `.device spi` line is read and then
dropped. N is fixed at construction (R26) and no event sets it, so the requests run on whatever N the state holds; a
program that relies on its N is to be run on a block that `construct` built with it. -/
def assemble (l : SpiLayout) (dev : Device) : List String → Option (List Request)
  | [] => some []
  | t :: ts =>
    match readLine l t with
    | some .blank => assemble l dev ts
    | some (.device d _) => assemble l d ts
    | some (.lines ls) =>
      match assemble l dev ts with
      | some rs => some (ls.map (AsmLine.request dev) ++ rs)
      | none => none
    | some .getcLoop => none
    | none => none

end Sys2Proof.Machine
end

