-- ==== Sys2Proof/Safety.lean ====
section
/-! DEFINITION. What holds of the block at every event boundary: the invariants of R27, R120, R250, R40 and R41, for
parameters that are a configuration of the block. -/

namespace Sys2Proof.Machine

/-- The UART between two events: `cfg` holds only guest-writable bits (R27), RX keeps its capacity (R120), and the pin
carries the level of the interrupt engine (R40, R162). -/
structure Uart.Ok (p : Params) (u : Uart) : Prop where
  cfg_writable : u.cfg &&& ~~~p.uart.wmask = 0#32
  rx_fits : u.rx.length ≤ uartRxCap
  irq_level : u.irq = uartIrqLevel p.uart u

/-- The SPI between two events: `cfg` holds only guest-writable bits (R27), RX keeps its capacity (R120), TX is empty
(R250), and the pins carry the levels of the router and of the interrupt engine (R40, R41, R164, R184). -/
structure Spi.Ok (p : Params) (s : Spi) : Prop where
  cfg_writable : s.cfg &&& ~~~p.spi.wmask = 0#32
  rx_fits : s.rx.length ≤ spiRxCap
  tx_empty : s.tx = []
  cs_levels : s.cs = csLevels p s.cfg
  irq_level : s.irq = spiIrqLevel p.spi s

/-- A state the block can be in between two events: its parameters are a configuration, and every instance of a device is
as that device is between two events, under its own parameters (R74). -/
structure State.Inv (s : State) : Prop where
  config_wf : s.configWf = true
  uart_ok : s.uart.Ok s.params
  spi_ok : s.spi.Ok s.params
  moreUarts_ok : ∀ u ∈ s.moreUarts, u.dev.Ok (s.params.withUart u.params)
  moreSpis_ok : ∀ c ∈ s.moreSpis, c.dev.Ok (s.params.withSpi c.params)

/-- A finite sequence of events applied from a start state, which stops at the first fault or refusal (R351). -/
def execAll : List Instr → State → Host.Outcome State Fault Refusal
  | [], s => .next s
  | i :: is, s =>
    match exec i s with
    | .next t => execAll is t
    | .fault f => .fault f
    | .refused r => .refused r

/-- A sequence of pushes (`some b`) and pops (`none`) on a FIFO: what it holds at the end and the bytes popped, in
order; nothing when a push meets a full FIFO or a pop an empty one (R128). -/
def fifoRun (cap : Nat) : List (Option Byte) → List Byte → Option (List Byte × List Byte)
  | [], q => some (q, [])
  | some b :: ops, q =>
    match fifoPush cap q b with
    | (q', true) => fifoRun cap ops q'
    | (_, false) => none
  | none :: ops, q =>
    match fifoPop q with
    | .ok (q', b) => (fifoRun cap ops q').map fun r => (r.1, b :: r.2)
    | .error _ => none

/-- The bytes of a descriptor and its payload spell the instruction on the device, in every window that holds both
registers and whatever bytes follow (R80, R86, R89). -/
def Spells (dev : Device) (desc : Word) (payload : List Byte) (i : Instr) : Prop :=
  ∀ (regionSize : Nat) (rest : List Byte), 8 ≤ regionSize →
    decode regionSize dev (bytesOfWord desc ++ (payload ++ rest)) = .ok (i, rest)

/-! ### The spec's own formulas, written from the rules and not from the machine -/

/-- `uart_irq_level(u)` as R162 writes it. -/
def Spec.uartLevel (l : UartLayout) (cfg : Word) (rx : List Byte) : Bool :=
  cfg.getLsbD l.irqTxEmpty || (cfg.getLsbD l.irqRxNempty && decide (0 < rx.length))

/-- `spi_irq_level(s)` as R164 writes it. -/
def Spec.spiLevel (l : SpiLayout) (cfg : Word) (rx tx : List Byte) : Bool :=
  (cfg.getLsbD l.irqRxAvail && decide (0 < rx.length)) || (cfg.getLsbD l.irqTxEmpty && decide (tx.length = 0)) ||
    (cfg.getLsbD l.irqTxNhalf && decide (tx.length < 4))

/-- `uart_status(u)` as R147 writes it. -/
def Spec.uartStatus (l : UartLayout) (rx : List Byte) : Word :=
  (if 0 < rx.length then bit l.rxNempty else 0#32) ||| (if 16 ≤ rx.length then bit l.rxHalf else 0#32) |||
    (if rx.length = 32 then bit l.rxFull else 0#32) ||| bit l.txEmpty ||| bit l.txNhalf

/-- `spi_status(s)` as R154 writes it. -/
def Spec.spiStatus (l : SpiLayout) (rx tx : List Byte) : Word :=
  (if 0 < rx.length then bit l.rxAvail else 0#32) ||| (if tx.length = 0 then bit l.txEmpty else 0#32) |||
    (if tx.length < 4 then bit l.txNhalf else 0#32) ||| (if tx.length = 8 then bit l.txFull else 0#32) |||
    (3#32 <<< l.fifoSize.lsb) ||| (if 0 < tx.length then bit l.busy else 0#32)

/-- The index of R181, by its table. -/
def Spec.csIndex : Bool → Bool → Bool → Nat
  | false, false, false => 0
  | false, false, true => 0
  | false, true, false => 1
  | false, true, true => 1
  | true, false, false => 2
  | true, false, true => 2
  | true, true, false => 2
  | true, true, true => 2

/-- The level of line `k` for a configuration: low exactly when the lines are enabled and `k` is the index (R181,
R182, R183). -/
def Spec.csLine (l : SpiLayout) (cfg : Word) (k : Nat) : Bool :=
  !(cfg.getLsbD l.csEn &&
    decide (k = Spec.csIndex (cfg.getLsbD l.csSel2) (cfg.getLsbD l.csSel1) (cfg.getLsbD l.csSel0)))

/-- The levels of all N lines. -/
def Spec.csLines (p : Params) (cfg : Word) : List Bool :=
  (List.range p.ncs).map (Spec.csLine p.spi cfg)

end Sys2Proof.Machine
end

