-- ==== Sys2Proof/Certificates/Slice0/Obligations.lean ====
section
/-! DEFINITION. The statements for the provers. Each says which sentence of the spec it formalises; a statement whose
docstring says DERIVED rests on several sections or on a choice of the model, which it names. Words such as
`Spec.uartLevel` are the spec's own formulas, written in Safety.lean from the rules. -/

open Sys2Proof Sys2Proof.Machine

/-! ### Encoding and decoding -/

/-- DERIVED (30_encoding.md sections 1 and 3, log 8). Decoding the bytes of a well-formed instruction gives it back,
with every operand at every value, and leaves the bytes after it. -/
def Obligations.DecodeOfEncodeGivesTheInstruction : Prop :=
  ∀ (regionSize : Nat) (i : Instr) (rest : List Byte), i.wf regionSize = true →
    decode regionSize i.device (encode i ++ rest) = .ok (i, rest)

/-- DERIVED (30_encoding.md sections 1 and 3, log 8). What decodes is the encoding of a well-formed instruction of the
device: each event has one spelling. -/
def Obligations.DecodedBytesAreAnEncoding : Prop :=
  ∀ (regionSize : Nat) (dev : Device) (bytes rest : List Byte) (i : Instr),
    decode regionSize dev bytes = .ok (i, rest) →
    bytes = encode i ++ rest ∧ i.device = dev ∧ i.wf regionSize = true

/-- R86: "A descriptor selects the first row it matches". What decodes is the first row of the event map that the
descriptor matches, on the device it reached; a descriptor that matches no row is refused; and one that matches a row
which the device has decodes, if its offset, where it has one, lies in the window. -/
def Obligations.DecoderSelectsTheFirstMatchingRow : Prop :=
  ∀ (regionSize : Nat) (dev : Device) (desc : Word) (payload : List Byte), payload.length = 4 →
    (∀ i rest, decode regionSize dev (bytesOfWord desc ++ payload) = .ok (i, rest) →
      firstRow desc = some i.row ∧ i.device = dev) ∧
    (firstRow desc = none → ∃ e, decode regionSize dev (bytesOfWord desc ++ payload) = .error e) ∧
    (∀ row, firstRow desc = some row → (desc.toNat / 2 ^ 30 < 2 → desc.toNat % 2 ^ 24 < regionSize) →
      (dev = .spi → row ≠ .evRxDeliver ∧ row ≠ .qCanReceive) →
      ∃ i rest, decode regionSize dev (bytesOfWord desc ++ payload) = .ok (i, rest))

/-- DERIVED (30_encoding.md section 4, the table of R88). A refusal is named by a row of the table that the descriptor
matches, and a descriptor that matches a row of the table is refused. Where two rows match, the statement asks for
neither name (log 20). -/
def Obligations.DecoderRefusesExactlyTheTableOfR88 : Prop :=
  ∀ (regionSize : Nat) (dev : Device) (desc : Word) (payload : List Byte), payload.length = 4 →
    let kind := desc.toNat / 2 ^ 30
    let width := desc.toNat / 2 ^ 24 % 64
    let field := desc.toNat % 2 ^ 24
    let refusedAs := fun e => decode regionSize dev (bytesOfWord desc ++ payload) = .error e
    (refusedAs .reservedKind → kind = 3) ∧
    (refusedAs .eventWidthNonzero → kind = 2 ∧ width ≠ 0) ∧
    (refusedAs .unknownEvent → kind = 2 ∧ 2 < field) ∧
    (refusedAs .eventNotOnDevice → kind = 2 ∧ (field = 1 ∨ field = 2) ∧ dev = .spi) ∧
    (refusedAs .notThisDevice → kind < 2 ∧ regionSize ≤ field) ∧
    ¬ refusedAs .truncatedEvent ∧
    ((kind = 3 ∨ (kind = 2 ∧ width ≠ 0) ∨ (kind = 2 ∧ 2 < field) ∨
        (kind = 2 ∧ (field = 1 ∨ field = 2) ∧ dev = .spi) ∨ (kind < 2 ∧ regionSize ≤ field)) →
      ∃ e, refusedAs e)

/-- DERIVED (95_test_vectors.md section 2.1). Words written out from the spec's encoding decode to the rows the vectors
give: V-E1 to V-E4, V-E5, V-E10, V-E13 and V-E18 with their payloads, and a delivery. -/
def Obligations.WrittenOutWordsDecode : Prop :=
  decode 8 .uart [0x00#8, 0x00#8, 0x00#8, 0x04#8] = .ok (.uartRdCtrl, []) ∧
  decode 8 .uart [0x04#8, 0x00#8, 0x00#8, 0x04#8] = .ok (.uartRdData, []) ∧
  decode 8 .spi [0x00#8, 0x00#8, 0x00#8, 0x44#8, 0x51#8, 0x00#8, 0x10#8, 0x00#8] =
    .ok (.spiWrCtrl 0x00100051#32, []) ∧
  decode 8 .spi [0x04#8, 0x00#8, 0x00#8, 0x44#8, 0x78#8, 0x56#8, 0x34#8, 0x12#8] =
    .ok (.spiWrData 0x12345678#32, []) ∧
  decode 8 .uart [0x00#8, 0x00#8, 0x00#8, 0x01#8] = .ok (.uartRdInvalid 0#24 1#6, []) ∧
  decode 8 .spi [0x00#8, 0x00#8, 0x00#8, 0x42#8, 0xFF#8, 0xFF#8, 0x00#8, 0x00#8] =
    .ok (.spiWrInvalid 0#24 2#6 0xFFFF#32, []) ∧
  decode 16 .uart [0x08#8, 0x00#8, 0x00#8, 0x04#8] = .ok (.uartRdInvalid 8#24 4#6, []) ∧
  decode 8 .spi [0x00#8, 0x00#8, 0x00#8, 0x80#8] = .ok (.spiEvReset, []) ∧
  decode 8 .uart [0x01#8, 0x00#8, 0x00#8, 0x80#8, 0x41#8] = .ok (.uartEvRxDeliver 0x41#8, [])

/-! ### The step -/

/-- DERIVED (20_memory.md section 4 and R74, 30_encoding.md section 3, 70_reset_and_hazards.md R340; the queue is the
model's, log 5, and so is the number that names an instance, log 16). When the bytes of the event at the front decode, the
step is that instruction, on the attached instance the event names, on the state without the event; on the first instance
it is exec. An event for an instance that does not exist, or is detached, is refused. -/
def Obligations.StepRunsTheDecodedEvent : Prop :=
  ∀ (s : State) (dev : Device) (inst : Nat) (bytes tail : List Byte) (rest : List Request) (i : Instr),
    s.pending = .event dev inst bytes :: rest →
    let attached := match dev with
      | .uart => (s.uartAt inst).map (·.attached)
      | .spi => (s.spiAt inst).map (·.attached)
    (attached = some true → decode s.params.regionSize dev bytes = .ok (i, tail) →
      step s = execAt inst i { s with pending := rest } ∧
      (inst = 0 → step s = exec i { s with pending := rest })) ∧
    (attached = some false → step s = .refused .detached) ∧
    (attached = none → step s = .refused .noSuchInstance)

/-- DERIVED (20_memory.md section 1 and R74, 40_register_decoder.md; the queue is the model's, log 5; the 24-bit bound and
the disjoint windows in `configWf` are log 11). A guest access at a physical address in the window of an attached instance
of a device reaches that instance at the offset from its base: width 4 at offset 0 is CTRL, width 4 at offset 4 is DATA,
and every other access of the window is an invalid one. -/
def Obligations.BusAccessReachesItsRegister : Prop :=
  ∀ (s : State) (rest : List Request) (inst off : Nat) (w : Width) (v : Word),
    s.configWf = true → off < s.params.regionSize →
    let o := BitVec.ofNat 24 off
    let s' := { s with pending := rest }
    (∀ u, s.uartAt inst = some u → u.attached = true →
      (s.pending = .busRead (u.params.base + off) w :: rest →
        step s = execAt inst (if w = 4#6 ∧ off = 0 then .uartRdCtrl else if w = 4#6 ∧ off = 4 then .uartRdData
          else .uartRdInvalid o w) s') ∧
      (s.pending = .busWrite (u.params.base + off) w v :: rest →
        step s = execAt inst (if w = 4#6 ∧ off = 0 then .uartWrCtrl v else if w = 4#6 ∧ off = 4 then .uartWrData v
          else .uartWrInvalid o w v) s')) ∧
    (∀ c, s.spiAt inst = some c → c.attached = true →
      (s.pending = .busRead (c.params.base + off) w :: rest →
        step s = execAt inst (if w = 4#6 ∧ off = 0 then .spiRdCtrl else if w = 4#6 ∧ off = 4 then .spiRdData
          else .spiRdInvalid o w) s') ∧
      (s.pending = .busWrite (c.params.base + off) w v :: rest →
        step s = execAt inst (if w = 4#6 ∧ off = 0 then .spiWrCtrl v else if w = 4#6 ∧ off = 4 then .spiWrData v
          else .spiWrInvalid o w v) s'))

/-- DERIVED (20_memory.md R70, R71 and the last sentence but one of R61, log 12, log 14; that a detached instance decodes no
window is log 23). An atomic access and an instruction fetch to a window of any attached instance are refused; an access of any kind outside every window is refused under a
name of its own. -/
def Obligations.StepRefusesAtomicsFetchesAndOutsideAccesses : Prop :=
  ∀ (s : State) (rest : List Request) (addr : Nat) (w : Width) (v : Word),
    let inside := ∃ base, ((∃ j u, s.uartAt j = some u ∧ u.attached = true ∧ u.params.base = base) ∨
        ∃ j c, s.spiAt j = some c ∧ c.attached = true ∧ c.params.base = base) ∧
      base ≤ addr ∧ addr < base + s.params.regionSize
    (inside → s.pending = .busAtomic addr :: rest → step s = .refused .atomicAccess) ∧
    (inside → s.pending = .busFetch addr :: rest → step s = .refused .instructionFetch) ∧
    (¬ inside → (s.pending = .busRead addr w :: rest ∨ s.pending = .busWrite addr w v :: rest ∨
        s.pending = .busAtomic addr :: rest ∨ s.pending = .busFetch addr :: rest) →
      step s = .refused .outsideWindows)

/-- DERIVED (60_exceptions.md section 1, 41_fifo.md R127). No step ends in a fault, from any state: the fault
`pop_empty` is never reached. -/
def Obligations.NoStepFaults : Prop :=
  ∀ (s : State) (f : Fault), step s ≠ .fault f

/-! ### The UART's instructions -/

/-- R201: `UART.RD_CTRL` answers `cfg` OR the status word; a CTRL read changes no state; reserved bits read 0. -/
def Obligations.UartRdCtrlAnswersCfgOrStatus : Prop :=
  Spells .uart 0x04000000#32 [] .uartRdCtrl ∧
  ∀ s : State,
    let r := s.uart.cfg ||| Spec.uartStatus s.params.uart s.uart.rx
    exec .uartRdCtrl s = .next { s with
      uart := { s.uart with irq := Spec.uartLevel s.params.uart s.uart.cfg s.uart.rx }
      answer := .value r } ∧
    (s.uart.Ok s.params → exec .uartRdCtrl s = .next { s with answer := .value r }) ∧
    (s.uart.Ok s.params → r &&& s.params.uart.resmask = 0#32)

/-- R202: `UART.WR_CTRL v` stores `v & UART_WMASK`, replaces the interrupt enables and so re-drives the line, and leaves
everything else. -/
def Obligations.UartWrCtrlStoresTheWritableBits : Prop :=
  (∀ v, Spells .uart 0x44000000#32 (bytesOfWord v) (.uartWrCtrl v)) ∧
  ∀ (v : Word) (s : State),
    let cfg := v &&& s.params.uart.wmask
    exec (.uartWrCtrl v) s = .next { s with
      uart := { cfg := cfg, rx := s.uart.rx, irq := Spec.uartLevel s.params.uart cfg s.uart.rx }
      answer := .nothing }

/-- R203: `UART.RD_DATA` pops the oldest RX byte and answers it under the constant bits 31:8; an empty read answers 0 in
bits 7:0, logs a GuestProtocolError and changes no state. -/
def Obligations.UartRdDataPopsTheOldestByte : Prop :=
  Spells .uart 0x04000004#32 [] .uartRdData ∧
  ∀ s : State,
    let info := s.params.uartDataInfo &&& 0xFFFFFF00#32
    (∀ b q, s.uart.rx = b :: q →
      exec .uartRdData s = .next { s with
        uart := { cfg := s.uart.cfg, rx := q, irq := Spec.uartLevel s.params.uart s.uart.cfg q }
        answer := .value (info ||| b.setWidth 32) }) ∧
    (s.uart.rx = [] →
      exec .uartRdData s = .next { s with
        uart := { s.uart with irq := Spec.uartLevel s.params.uart s.uart.cfg [] }
        uartLog := s.uartLog ++ [.guestProtocolError .dataReadEmpty]
        answer := .value info }) ∧
    (s.uart.rx = [] → s.uart.Ok s.params →
      exec .uartRdData s = .next { s with
        uartLog := s.uartLog ++ [.guestProtocolError .dataReadEmpty]
        answer := .value info })

/-- R204: `UART.WR_DATA v` sends exactly the byte `v[7:0]` to the endpoint and changes no device state; the byte does not
enter the RX FIFO. -/
def Obligations.UartWrDataSendsTheLowByte : Prop :=
  (∀ v, Spells .uart 0x44000004#32 (bytesOfWord v) (.uartWrData v)) ∧
  ∀ (v : Word) (s : State),
    let sent := s.uartOut ++ [BitVec.ofNat 8 (v.toNat % 256)]
    exec (.uartWrData v) s = .next { s with
      uart := { s.uart with irq := Spec.uartLevel s.params.uart s.uart.cfg s.uart.rx }
      uartOut := sent
      answer := .nothing } ∧
    (s.uart.Ok s.params → exec (.uartWrData v) s = .next { s with uartOut := sent, answer := .nothing })

/-- R205: a delivery appends the byte to RX, whatever `cfg` holds; with 32 bytes held it changes no state but the log,
which gains a TransportOverflow. -/
def Obligations.UartDeliveryIsPushedOrDropped : Prop :=
  (∀ b, Spells .uart 0x80000001#32 [b] (.uartEvRxDeliver b)) ∧
  ∀ (b : Byte) (s : State),
    (s.uart.rx.length < 32 →
      exec (.uartEvRxDeliver b) s = .next { s with
        uart := { cfg := s.uart.cfg, rx := s.uart.rx ++ [b],
                  irq := Spec.uartLevel s.params.uart s.uart.cfg (s.uart.rx ++ [b]) }
        answer := .nothing }) ∧
    (32 ≤ s.uart.rx.length →
      exec (.uartEvRxDeliver b) s = .next { s with
        uart := { s.uart with irq := Spec.uartLevel s.params.uart s.uart.cfg s.uart.rx }
        uartLog := s.uartLog ++ [.transportOverflow b]
        answer := .nothing })

/-- R206: the query answers true for 0 to 31 bytes held and false at 32, and changes no state; and it says whether a
delivery made now would be kept. -/
def Obligations.CanReceiveTellsWhetherADeliveryIsKept : Prop :=
  Spells .uart 0x80000002#32 [] .uartQCanReceive ∧
  ∀ s : State,
    exec .uartQCanReceive s = .next { s with
      uart := { s.uart with irq := Spec.uartLevel s.params.uart s.uart.cfg s.uart.rx }
      answer := .canReceive (decide (s.uart.rx.length ≠ 32)) } ∧
    (s.uart.Ok s.params →
      exec .uartQCanReceive s = .next { s with answer := .canReceive (decide (s.uart.rx.length < 32)) } ∧
      ∀ b, ∃ t, exec (.uartEvRxDeliver b) s = .next t ∧
        (exec .uartQCanReceive s = .next { s with answer := .canReceive true } ↔ t.uart.rx = s.uart.rx ++ [b]))

/-- R341: a reset clears the device's `cfg` and FIFOs, and so deasserts its interrupt line and every chip-select line; N,
the logs and the other device are unchanged. -/
def Obligations.ResetClearsTheDevice : Prop :=
  Spells .uart 0x80000000#32 [] .uartEvReset ∧ Spells .spi 0x80000000#32 [] .spiEvReset ∧
  ∀ s : State,
    exec .uartEvReset s = .next { s with uart := { cfg := 0#32, rx := [], irq := false }, answer := .nothing } ∧
    exec .spiEvReset s = .next { s with
      spi := { cfg := 0#32, rx := [], tx := [], cs := List.replicate s.params.ncs true, irq := false }
      answer := .nothing }

/-- R147: the status word that a CTRL read ORs to `cfg`, in every layout, and "its values by occupancy" under UART_REF. -/
def Obligations.UartStatusByOccupancyUnderUartRef : Prop :=
  (∀ s t : State, exec .uartRdCtrl s = .next t →
    t.answer = .value (s.uart.cfg ||| Spec.uartStatus s.params.uart s.uart.rx)) ∧
  ∀ s t : State, s.params.uart = UartLayout.reference → s.uart.rx.length ≤ 32 →
    exec .uartRdCtrl s = .next t →
    t.answer = .value (s.uart.cfg ||| (if s.uart.rx.length = 0 then 0x00180000#32
      else if s.uart.rx.length ≤ 15 then 0x00190000#32
      else if s.uart.rx.length ≤ 31 then 0x001B0000#32 else 0x001F0000#32))

/-- R141, R142, R146 in every layout: in a CTRL read each status field shows its own condition, and each writable bit
shows the stored one. The other bits of 42_status_projection.md section 2 are stated with them. -/
def Obligations.UartCtrlReadShowsEachField : Prop :=
  ∀ s t : State, s.params.uart.wf = true → s.uart.Ok s.params → exec .uartRdCtrl s = .next t →
    ∃ r : Word, t.answer = .value r ∧
      r.getLsbD s.params.uart.rxNempty = decide (0 < s.uart.rx.length) ∧
      r.getLsbD s.params.uart.rxHalf = decide (16 ≤ s.uart.rx.length) ∧
      r.getLsbD s.params.uart.rxFull = decide (s.uart.rx.length = 32) ∧
      r.getLsbD s.params.uart.txEmpty = true ∧ r.getLsbD s.params.uart.txNhalf = true ∧
      r.getLsbD s.params.uart.txFull = false ∧ r.getLsbD s.params.uart.rxOver = false ∧
      r.getLsbD s.params.uart.txBusy = false ∧
      r &&& s.params.uart.wmask = s.uart.cfg

/-- R209: "Bytes reach the endpoint in the order of their DATA writes", and none is lost. -/
def Obligations.UartBytesLeaveInWriteOrder : Prop :=
  ∀ (vs : List Word) (s : State), ∃ t, execAll (vs.map Instr.uartWrData) s = .next t ∧
    t.uartOut = s.uartOut ++ vs.map (fun v => BitVec.ofNat 8 (v.toNat % 256)) ∧
    t.uart.cfg = s.uart.cfg ∧ t.uart.rx = s.uart.rx ∧ t.spi = s.spi ∧ t.uartLog = s.uartLog

/-- DERIVED (41_fifo.md, 45_uart_ops.md R205). A burst of deliveries leaves the bytes held and then the delivered ones,
in order, cut at 32, and logs one TransportOverflow for each byte beyond. -/
def Obligations.UartDeliveryBurstKeepsTheFirst32 : Prop :=
  ∀ (bs : List Byte) (s : State), s.uart.rx.length ≤ 32 →
    ∃ t, execAll (bs.map Instr.uartEvRxDeliver) s = .next t ∧
      t.uart.rx = (s.uart.rx ++ bs).take 32 ∧ t.uart.cfg = s.uart.cfg ∧
      t.uartLog = s.uartLog ++ (bs.drop (32 - s.uart.rx.length)).map LogRecord.transportOverflow

/-- DERIVED (41_fifo.md R128, 45_uart_ops.md R203: "Bytes come out in delivery order"). Deliver bytes that fit to an empty
UART, and read DATA once for each byte before `b`. Then the next read answers `b`, and the bytes delivered after `b` are
held, in order; nothing is logged. As `bs`, `b` and `cs` are any, this is so of every read. -/
def Obligations.UartBytesComeOutInDeliveryOrder : Prop :=
  ∀ (bs cs : List Byte) (b : Byte) (s : State), s.uart.rx = [] → (bs ++ b :: cs).length ≤ 32 →
    ∃ t u, execAll ((bs ++ b :: cs).map Instr.uartEvRxDeliver ++ bs.map (fun _ => Instr.uartRdData)) s = .next t ∧
      exec .uartRdData t = .next u ∧
      u.answer = .value ((s.params.uartDataInfo &&& 0xFFFFFF00#32) ||| b.setWidth 32) ∧ u.uart.rx = cs ∧
      u.uartLog = s.uartLog

/-! ### The SPI's instructions -/

/-- R240: `SPI.RD_CTRL` answers `cfg` OR the status word and changes no state; between events BUSY and TX_FULL read 0,
TX_EMPTY and TX_NHALF read 1 and the size field reads 3, and reserved bits read 0. -/
def Obligations.SpiRdCtrlAnswersCfgOrStatus : Prop :=
  Spells .spi 0x04000000#32 [] .spiRdCtrl ∧
  ∀ s : State,
    let r := s.spi.cfg ||| Spec.spiStatus s.params.spi s.spi.rx s.spi.tx
    exec .spiRdCtrl s = .next { s with
      spi := { s.spi with cs := Spec.csLines s.params s.spi.cfg
                          irq := Spec.spiLevel s.params.spi s.spi.cfg s.spi.rx s.spi.tx }
      answer := .value r } ∧
    (s.spi.Ok s.params → exec .spiRdCtrl s = .next { s with answer := .value r }) ∧
    (s.spi.Ok s.params → s.params.spi.wf = true →
      r.getLsbD s.params.spi.busy = false ∧ r.getLsbD s.params.spi.txFull = false ∧
      r.getLsbD s.params.spi.txEmpty = true ∧ r.getLsbD s.params.spi.txNhalf = true ∧
      r.extractLsb' s.params.spi.fifoSize.lsb 4 = 3#4 ∧ r &&& s.params.spi.resmask = 0#32)

/-- R241: `SPI.WR_CTRL v` stores `v & SPI_WMASK`, re-routes the chip-selects and re-drives the line, and does not touch
the FIFOs. Between events it is the only guest event that moves a chip-select line; the one other event that does is a
reset. -/
def Obligations.SpiWrCtrlStoresAndRoutes : Prop :=
  (∀ v, Spells .spi 0x44000000#32 (bytesOfWord v) (.spiWrCtrl v)) ∧
  (∀ (v : Word) (s : State),
    let cfg := v &&& s.params.spi.wmask
    exec (.spiWrCtrl v) s = .next { s with
      spi := { cfg := cfg, rx := s.spi.rx, tx := s.spi.tx, cs := Spec.csLines s.params cfg
               irq := Spec.spiLevel s.params.spi cfg s.spi.rx s.spi.tx }
      answer := .nothing }) ∧
  ∀ (i : Instr) (s t : State), s.Inv → exec i s = .next t → t.spi.cs ≠ s.spi.cs →
    i = .spiEvReset ∨ ∃ v, i = .spiWrCtrl v

/-- R242: `SPI.RD_DATA` pops the oldest RX byte and answers it with 0 in bits 31:8; an empty read answers 0, logs a
GuestProtocolError and changes no state. -/
def Obligations.SpiRdDataPopsTheOldestByte : Prop :=
  Spells .spi 0x04000004#32 [] .spiRdData ∧
  ∀ s : State,
    (∀ b q, s.spi.rx = b :: q →
      exec .spiRdData s = .next { s with
        spi := { cfg := s.spi.cfg, rx := q, tx := s.spi.tx, cs := Spec.csLines s.params s.spi.cfg
                 irq := Spec.spiLevel s.params.spi s.spi.cfg q s.spi.tx }
        answer := .value (b.setWidth 32) }) ∧
    (s.spi.rx = [] →
      exec .spiRdData s = .next { s with
        spi := { s.spi with cs := Spec.csLines s.params s.spi.cfg
                            irq := Spec.spiLevel s.params.spi s.spi.cfg [] s.spi.tx }
        spiLog := s.spiLog ++ [.guestProtocolError .dataReadEmpty]
        answer := .value 0#32 }) ∧
    (s.spi.rx = [] → s.spi.Ok s.params →
      exec .spiRdData s = .next { s with
        spiLog := s.spiLog ++ [.guestProtocolError .dataReadEmpty]
        answer := .value 0#32 })

/-- DERIVED (46_spi_ops.md R243, R244, R246; that a schedule in the state may give the response, and how an exchange takes
from it or from the draws, is the model's choice, log 6). From a state between two events, a DATA write exchanges exactly
the byte `v[7:0]` once, with the present chip-select levels, for a response `r`, which is the answer scheduled for it if
there is one and anything otherwise; `r` is appended to RX when fewer than 8 bytes are held, and dropped with a log record
when 8 are; TX ends empty, and the lines stay. -/
def Obligations.SpiWrDataExchangesOneByte : Prop :=
  (∀ v, Spells .spi 0x44000004#32 (bytesOfWord v) (.spiWrData v)) ∧
  ∀ (v : Word) (s : State), s.spi.Ok s.params →
    ∃ r : Byte,
      (∀ r0 rest, s.spiResponses = r0 :: rest → r = r0) ∧
      let rx := if s.spi.rx.length < 8 then s.spi.rx ++ [r] else s.spi.rx
      exec (.spiWrData v) s = .next { s with
        spi := { cfg := s.spi.cfg, rx := rx, tx := [], cs := s.spi.cs
                 irq := Spec.spiLevel s.params.spi s.spi.cfg rx [] }
        spiXfers := s.spiXfers ++ [⟨BitVec.ofNat 8 (v.toNat % 256), s.spi.cs, r⟩]
        spiLog := if s.spi.rx.length < 8 then s.spiLog else s.spiLog ++ [.spiRxDrop r]
        spiResponses := s.spiResponses.tail
        draws := if s.spiResponses = [] then s.draws + 1 else s.draws
        answer := .nothing }

/-- R245, in every state, also one no run reaches: a DATA write completes, sends the bytes TX holds and then, if TX has
room, its own, oldest first, one exchange each; each response is pushed on RX or, when RX is full, dropped with a record;
and it ends with TX empty. -/
def Obligations.SpiWrDataDrainsTxInOrder : Prop :=
  ∀ (v : Word) (s : State), ∃ t xs,
    exec (.spiWrData v) s = .next t ∧ t.spiXfers = s.spiXfers ++ xs ∧
    xs.map SpiXfer.sent =
      (if s.spi.tx.length < 8 then s.spi.tx ++ [BitVec.ofNat 8 (v.toNat % 256)] else s.spi.tx) ∧
    (∀ x ∈ xs, x.cs = s.spi.cs) ∧
    (s.spi.rx.length ≤ 8 → t.spi.rx = (s.spi.rx ++ xs.map SpiXfer.response).take 8 ∧
      t.spiLog = s.spiLog ++ ((xs.map SpiXfer.response).drop (8 - s.spi.rx.length)).map LogRecord.spiRxDrop) ∧
    t.spi.tx = [] ∧ t.spi.cfg = s.spi.cfg ∧ t.spi.cs = Spec.csLines s.params s.spi.cfg ∧
    t.uart = s.uart ∧ t.uartOut = s.uartOut ∧ t.uartLog = s.uartLog ∧ t.params = s.params ∧
    t.pending = s.pending

/-- R154: the SPI's status word that a CTRL read ORs to `cfg`, in every layout; and under SPI_REF, at an event boundary, a
guest reads only 0x01860000 or 0x01870000 in CTRL's read-only bits. -/
def Obligations.SpiStatusUnderSpiRef : Prop :=
  (∀ s t : State, exec .spiRdCtrl s = .next t →
    t.answer = .value (s.spi.cfg ||| Spec.spiStatus s.params.spi s.spi.rx s.spi.tx)) ∧
  ∀ s t : State, s.params.spi = SpiLayout.reference → s.spi.Ok s.params → exec .spiRdCtrl s = .next t →
    ∃ r : Word, t.answer = .value r ∧
      r = s.spi.cfg ||| (if s.spi.rx = [] then 0x01860000#32 else 0x01870000#32) ∧
      r &&& 0x878F0000#32 = (if s.spi.rx = [] then 0x01860000#32 else 0x01870000#32)

/-- R148 to R152 in every layout and for every TX occupancy: each status field of the word a CTRL read answers shows its
own condition, and each writable bit the stored one. -/
def Obligations.SpiCtrlReadShowsEachField : Prop :=
  ∀ s t : State, s.params.spi.wf = true → s.spi.cfg &&& ~~~s.params.spi.wmask = 0#32 →
    exec .spiRdCtrl s = .next t →
    ∃ r : Word, t.answer = .value r ∧
      r.getLsbD s.params.spi.rxAvail = decide (0 < s.spi.rx.length) ∧
      r.getLsbD s.params.spi.txEmpty = decide (s.spi.tx.length = 0) ∧
      r.getLsbD s.params.spi.txNhalf = decide (s.spi.tx.length < 4) ∧
      r.getLsbD s.params.spi.txFull = decide (s.spi.tx.length = 8) ∧
      r.getLsbD s.params.spi.busy = decide (0 < s.spi.tx.length) ∧
      r.extractLsb' s.params.spi.fifoSize.lsb 4 = 3#4 ∧
      r &&& s.params.spi.wmask = s.spi.cfg

/-- DERIVED (46_spi_ops.md R246, 70_reset_and_hazards.md R348, 44_chip_select.md R187). A burst of DATA writes without
reads, from a state between two events, exchanges every byte in order with the same chip-select levels; RX ends with the
bytes it held and then the responses, in order, cut at 8: "loses every response after the eighth". -/
def Obligations.SpiBurstKeepsTheFirst8Responses : Prop :=
  ∀ (vs : List Word) (s : State), s.spi.Ok s.params →
    ∃ t xs, execAll (vs.map Instr.spiWrData) s = .next t ∧ t.spiXfers = s.spiXfers ++ xs ∧
      xs.map SpiXfer.sent = vs.map (fun v => BitVec.ofNat 8 (v.toNat % 256)) ∧
      (∀ x ∈ xs, x.cs = s.spi.cs) ∧
      t.spi.rx = (s.spi.rx ++ xs.map SpiXfer.response).take 8 ∧
      t.spiLog = s.spiLog ++ ((xs.map SpiXfer.response).drop (8 - s.spi.rx.length)).map LogRecord.spiRxDrop ∧
      t.spi.cs = s.spi.cs ∧ t.spi.cfg = s.spi.cfg ∧ t.spi.tx = []

/-- DERIVED (30_encoding.md R91, 70_reset_and_hazards.md R345, 46_spi_ops.md R242, R243). `spi.xfer`: from a state between
two events, a DATA write and a DATA read right after it exchange one byte; the read answers the response of that exchange
"only if RX was empty before", and otherwise the oldest byte held. -/
def Obligations.SpiXferReturnsTheOldestResponse : Prop :=
  ∀ (v : Word) (s : State), s.spi.Ok s.params →
    ∃ t x, execAll [.spiWrData v, .spiRdData] s = .next t ∧ t.spiXfers = s.spiXfers ++ [x] ∧
      x.sent = BitVec.ofNat 8 (v.toNat % 256) ∧ x.cs = s.spi.cs ∧
      (s.spi.rx = [] → t.answer = .value (x.response.setWidth 32) ∧ t.spi.rx = []) ∧
      ∀ b q, s.spi.rx = b :: q → t.answer = .value (b.setWidth 32) ∧
        t.spi.rx = (if q.length < 7 then q ++ [x.response] else q)

/-! ### Invalid accesses -/

/-- R101: a guest read of the window at an offset other than 0x0 and 0x4 or with width other than 4, on both devices,
answers 0 and logs a GuestProtocolError with its offset and width; it changes no state. -/
def Obligations.InvalidReadsAnswerZeroAndChangeNothing : Prop :=
  ∀ (off : Offset) (w : Width),
    (∀ (regionSize : Nat) (rest : List Byte), off.toNat < regionSize →
      ¬(w.toNat = 4 ∧ (off.toNat = 0 ∨ off.toNat = 4)) →
      decode regionSize .uart (bytesOfWord (mkDescriptor 0#2 w off) ++ rest) = .ok (.uartRdInvalid off w, rest) ∧
      decode regionSize .spi (bytesOfWord (mkDescriptor 0#2 w off) ++ rest) = .ok (.spiRdInvalid off w, rest)) ∧
    ∀ s : State,
      exec (.uartRdInvalid off w) s = .next { s with
        uart := { s.uart with irq := Spec.uartLevel s.params.uart s.uart.cfg s.uart.rx }
        uartLog := s.uartLog ++ [.guestProtocolError (.badRead off w)], answer := .value 0#32 } ∧
      exec (.spiRdInvalid off w) s = .next { s with
        spi := { s.spi with cs := Spec.csLines s.params s.spi.cfg
                            irq := Spec.spiLevel s.params.spi s.spi.cfg s.spi.rx s.spi.tx }
        spiLog := s.spiLog ++ [.guestProtocolError (.badRead off w)], answer := .value 0#32 } ∧
      (s.Inv →
        exec (.uartRdInvalid off w) s = .next { s with
          uartLog := s.uartLog ++ [.guestProtocolError (.badRead off w)], answer := .value 0#32 } ∧
        exec (.spiRdInvalid off w) s = .next { s with
          spiLog := s.spiLog ++ [.guestProtocolError (.badRead off w)], answer := .value 0#32 })

/-- R102: a guest write of the window at an offset other than 0x0 and 0x4 or with width other than 4, on both devices, is
ignored whole and logs a GuestProtocolError with its offset, width and value; it changes no state. -/
def Obligations.InvalidWritesAreIgnored : Prop :=
  ∀ (off : Offset) (w : Width) (v : Word),
    (∀ (regionSize : Nat) (rest : List Byte), off.toNat < regionSize →
      ¬(w.toNat = 4 ∧ (off.toNat = 0 ∨ off.toNat = 4)) →
      decode regionSize .uart (bytesOfWord (mkDescriptor 1#2 w off) ++ (bytesOfWord v ++ rest)) =
        .ok (.uartWrInvalid off w v, rest) ∧
      decode regionSize .spi (bytesOfWord (mkDescriptor 1#2 w off) ++ (bytesOfWord v ++ rest)) =
        .ok (.spiWrInvalid off w v, rest)) ∧
    ∀ s : State,
      exec (.uartWrInvalid off w v) s = .next { s with
        uart := { s.uart with irq := Spec.uartLevel s.params.uart s.uart.cfg s.uart.rx }
        uartLog := s.uartLog ++ [.guestProtocolError (.badWrite off w v)], answer := .nothing } ∧
      exec (.spiWrInvalid off w v) s = .next { s with
        spi := { s.spi with cs := Spec.csLines s.params s.spi.cfg
                            irq := Spec.spiLevel s.params.spi s.spi.cfg s.spi.rx s.spi.tx }
        spiLog := s.spiLog ++ [.guestProtocolError (.badWrite off w v)], answer := .nothing } ∧
      (s.Inv →
        exec (.uartWrInvalid off w v) s = .next { s with
          uartLog := s.uartLog ++ [.guestProtocolError (.badWrite off w v)], answer := .nothing } ∧
        exec (.spiWrInvalid off w v) s = .next { s with
          spiLog := s.spiLog ++ [.guestProtocolError (.badWrite off w v)], answer := .nothing })

/-! ### CTRL writes and the read-only bits -/

/-- DERIVED (42_status_projection.md R155). `ctrl_value` after `WR_CTRL(v)` is `(v & WMASK) | status(x)`, and `status(x)` is the read-only part before the
write; on both devices. -/
def Obligations.CtrlReadAfterCtrlWrite : Prop :=
  (∀ (v : Word) (s t u x : State), s.params.uart.wf = true → s.uart.Ok s.params →
    exec .uartRdCtrl s = .next x → exec (.uartWrCtrl v) s = .next t → exec .uartRdCtrl t = .next u →
    ∃ old new : Word, x.answer = .value old ∧ u.answer = .value new ∧
      new = (v &&& s.params.uart.wmask) ||| (old &&& s.params.uart.romask)) ∧
  (∀ (v : Word) (s t u x : State), s.params.spi.wf = true → s.spi.Ok s.params →
    exec .spiRdCtrl s = .next x → exec (.spiWrCtrl v) s = .next t → exec .spiRdCtrl t = .next u →
    ∃ old new : Word, x.answer = .value old ∧ u.answer = .value new ∧
      new = (v &&& s.params.spi.wmask) ||| (old &&& s.params.spi.romask))

/-- R31 and R35, with the masks of the reference layouts: reserved bits "read 0, and a write to them is ignored". -/
def Obligations.ReservedBitsReadZeroAndIgnoreWrites : Prop :=
  UartLayout.reference.resmask = 0x3D800000#32 ∧ SpiLayout.reference.resmask = 0x7800C000#32 ∧
  ∀ (v : Word) (s : State),
    exec (.uartWrCtrl v) s = exec (.uartWrCtrl (v &&& ~~~s.params.uart.resmask)) s ∧
    exec (.spiWrCtrl v) s = exec (.spiWrCtrl (v &&& ~~~s.params.spi.resmask)) s ∧
    (s.uart.Ok s.params → ∀ t, exec .uartRdCtrl s = .next t →
      ∃ r : Word, t.answer = .value r ∧ r &&& s.params.uart.resmask = 0#32) ∧
    (s.params.spi.wf = true → s.spi.Ok s.params → ∀ t, exec .spiRdCtrl s = .next t →
      ∃ r : Word, t.answer = .value r ∧ r &&& s.params.spi.resmask = 0#32)

/-- DERIVED (10_state.md R37: "Only a CTRL write or a reset changes it"; 42_status_projection.md). `cfg`, and with it the
interrupt enables, changes only by a CTRL write or a reset of its own device. -/
def Obligations.OnlyCtrlWritesAndResetsChangeCfg : Prop :=
  ∀ (i : Instr) (s t : State), exec i s = .next t →
    (t.uart.cfg ≠ s.uart.cfg → i = .uartEvReset ∨ ∃ v, i = .uartWrCtrl v) ∧
    (t.spi.cfg ≠ s.spi.cfg → i = .spiEvReset ∨ ∃ v, i = .spiWrCtrl v)

/-! ### Interrupt outputs -/

/-- R40 with R162: at the end of every event of a device its interrupt output equals the level function. -/
def Obligations.IrqOutputEqualsTheLevelFunction : Prop :=
  ∀ (i : Instr) (s : State), ∃ t, exec i s = .next t ∧
    (i.device = .uart → t.uart.irq = Spec.uartLevel t.params.uart t.uart.cfg t.uart.rx) ∧
    (i.device = .spi → t.spi.irq = Spec.spiLevel t.params.spi t.spi.cfg t.spi.rx t.spi.tx)

/-- R164: after every event from a state between two events the SPI's line carries the level function, which there is `cfg[TX_EMPTY] or cfg[TX_NHALF] or (cfg[RX_AVAIL] and |rx| > 0)`. -/
def Obligations.SpiIrqLevelBetweenEvents : Prop :=
  ∀ (i : Instr) (s t : State), s.Inv → exec i s = .next t →
    t.spi.irq = Spec.spiLevel t.params.spi t.spi.cfg t.spi.rx t.spi.tx ∧
    t.spi.irq = (t.spi.cfg.getLsbD t.params.spi.irqTxEmpty || t.spi.cfg.getLsbD t.params.spi.irqTxNhalf ||
      (t.spi.cfg.getLsbD t.params.spi.irqRxAvail && decide (0 < t.spi.rx.length)))

/-- R168: suppose a pair's condition is true and no other pair is both enabled and true. Then a CTRL write that clears that
pair's enable, and leaves the other enables as they are, deasserts the line in the same event; for each pair of both
devices. -/
def Obligations.ClearingTheOnlyActiveEnableDeassertsTheLine : Prop :=
  ∀ (v : Word) (s : State),
    let eRx := s.params.uart.irqRxNempty
    let eTx := s.params.uart.irqTxEmpty
    let sRx := s.params.spi.irqRxAvail
    let sTx := s.params.spi.irqTxEmpty
    let sHalf := s.params.spi.irqTxNhalf
    let rxPair := s.uart.cfg.getLsbD eRx = true ∧ 0 < s.uart.rx.length
    let txPair := s.uart.cfg.getLsbD eTx = true
    let availPair := s.spi.cfg.getLsbD sRx = true ∧ 0 < s.spi.rx.length
    let emptyPair := s.spi.cfg.getLsbD sTx = true ∧ s.spi.tx.length = 0
    let halfPair := s.spi.cfg.getLsbD sHalf = true ∧ s.spi.tx.length < 4
    (0 < s.uart.rx.length → ¬ txPair → v.getLsbD eRx = false → v.getLsbD eTx = s.uart.cfg.getLsbD eTx →
      ∃ t, exec (.uartWrCtrl v) s = .next t ∧ t.uart.irq = false) ∧
    (¬ rxPair → v.getLsbD eTx = false → v.getLsbD eRx = s.uart.cfg.getLsbD eRx →
      ∃ t, exec (.uartWrCtrl v) s = .next t ∧ t.uart.irq = false) ∧
    (0 < s.spi.rx.length → ¬ emptyPair → ¬ halfPair → v.getLsbD sRx = false →
      v.getLsbD sTx = s.spi.cfg.getLsbD sTx → v.getLsbD sHalf = s.spi.cfg.getLsbD sHalf →
      ∃ t, exec (.spiWrCtrl v) s = .next t ∧ t.spi.irq = false) ∧
    (s.spi.tx.length = 0 → ¬ availPair → ¬ halfPair → v.getLsbD sTx = false →
      v.getLsbD sRx = s.spi.cfg.getLsbD sRx → v.getLsbD sHalf = s.spi.cfg.getLsbD sHalf →
      ∃ t, exec (.spiWrCtrl v) s = .next t ∧ t.spi.irq = false) ∧
    (s.spi.tx.length < 4 → ¬ availPair → ¬ emptyPair → v.getLsbD sHalf = false →
      v.getLsbD sRx = s.spi.cfg.getLsbD sRx → v.getLsbD sTx = s.spi.cfg.getLsbD sTx →
      ∃ t, exec (.spiWrCtrl v) s = .next t ∧ t.spi.irq = false)

/-! ### Chip-select outputs -/

/-- R181, R182, R183: after every SPI event line `k` is low exactly when the lines are enabled and `k` is the index of the
table of R181; an index with no line leaves every line high. -/
def Obligations.ChipSelectLinesFollowThePriorityTable : Prop :=
  ∀ (i : Instr) (s t : State), i.device = .spi → exec i s = .next t →
    t.spi.cs.length = t.params.ncs ∧
    (∀ k : Nat, k < t.params.ncs → t.spi.cs[k]? = some (Spec.csLine t.params.spi t.spi.cfg k)) ∧
    (t.params.ncs ≤ Spec.csIndex (t.spi.cfg.getLsbD t.params.spi.csSel2)
        (t.spi.cfg.getLsbD t.params.spi.csSel1) (t.spi.cfg.getLsbD t.params.spi.csSel0) →
      t.spi.cs = List.replicate t.params.ncs true)

/-- R186: "in every state at an event boundary, at most one of `s.cs[0..N-1]` is false": after every SPI event, from any
state, and after every event from a state between two events. -/
def Obligations.AtMostOneChipSelectLineIsLow : Prop :=
  ∀ (i : Instr) (s t : State), exec i s = .next t → (i.device = .spi ∨ s.Inv) →
    t.spi.cs.length = t.params.ncs ∧ (t.spi.cs.filter (fun level => !level)).length ≤ 1

/-! ### FIFO buffers -/

/-- R121: a push appends at the tail when there is room, and on a full FIFO is a no-op that reports the drop. -/
def Obligations.PushAppendsOrReportsTheDrop : Prop :=
  ∀ (cap : Nat) (q : List Byte) (b : Byte), q.length ≤ cap →
    fifoPush cap q b = (if q.length = cap then (q, false) else (q ++ [b], true)) ∧
    (fifoPush cap q b).1.length ≤ cap ∧ q <+: (fifoPush cap q b).1

/-- R128: for any sequence of pushes and pops from the empty FIFO in which no push meets a full FIFO and no pop an empty
one, occupancy equals pushes minus pops and the bytes popped are the bytes pushed, in push order; a push on a full FIFO
leaves it as it was. -/
def Obligations.FifoKeepsPushOrder : Prop :=
  (∀ (cap : Nat) (ops : List (Option Byte)) (q popped : List Byte), fifoRun cap ops [] = some (q, popped) →
    popped ++ q = ops.filterMap id ∧ q.length + (ops.filter Option.isNone).length = (ops.filter Option.isSome).length ∧
    q.length ≤ cap) ∧
  ∀ (cap : Nat) (q : List Byte) (b : Byte), q.length = cap → (fifoPush cap q b).1 = q

/-! ### Invariants and whole-machine rules -/

/-- DERIVED (10_state.md R27, R40, R41; 41_fifo.md R120; 46_spi_ops.md R250; what `configWf` asks of the windows is
log 11). Every step from a state between two events ends in one: `cfg` inside its mask, the FIFOs within their
capacities, TX empty, and every pin at the level its function gives, of every instance of each device. -/
def Obligations.EveryStepKeepsTheInvariant : Prop :=
  ∀ s t : State, s.Inv → step s = .next t → t.Inv

/-- DERIVED (10_state.md section 6; the parameters of State.reset are log 1 to 4). The state after reset meets the
invariant. -/
def Obligations.ResetMeetsTheInvariant : Prop := State.reset.Inv

/-- R303: constructing an SPI controller with a zero or negative number of lines is rejected at construction, and "an SPI
state with N < 1 does not exist". With any other number the block is attached with its registers zeroed, its FIFOs empty
and that many lines, all high; and both devices attached; and it is a state between two events. -/
def Obligations.ConstructionRejectsNoLinesAndAttachesReset : Prop :=
  (∀ (p : Params) (n : Int), n ≤ 0 → construct p n = .error .noChipSelectLine) ∧
  (∀ s : State, 1 ≤ s.params.ncs.val) ∧
  ∀ (p : Params) (n : Int), 0 < n → ∃ s, construct p n = .ok s ∧ (s.params.ncs.val : Int) = n ∧
    s.uart = ⟨0#32, [], false⟩ ∧ s.spi = ⟨0#32, [], [], List.replicate n.toNat true, false⟩ ∧
    s.uartAttached = true ∧ s.spiAttached = true ∧ (p.wf = true → s.Inv)

/-- R300: "None of its events faults or stops the device": every instruction completes in every state. No event changes
the parameters, N among them (R26), or an instance other than its own, none detaches a device, and none takes from the queue but its own
request. -/
def Obligations.EveryEventCompletes : Prop :=
  ∀ (i : Instr) (s : State), ∃ t, exec i s = .next t ∧ t.params = s.params ∧ t.pending = s.pending ∧
    t.moreUarts = s.moreUarts ∧ t.moreSpis = s.moreSpis ∧ t.uartAttached = s.uartAttached ∧
    t.spiAttached = s.spiAttached

/-- R250: TX is empty at every event boundary: after reset, after a DATA write from any state, and after every event
from a state in which it was empty. -/
def Obligations.TxIsEmptyAtEveryBoundary : Prop :=
  State.reset.spi.tx = [] ∧ (∀ p : Params, (State.attach p).spi.tx = []) ∧
  ∀ (i : Instr) (s t : State), exec i s = .next t →
    (s.spi.tx = [] ∨ i = .spiEvReset ∨ ∃ v, i = .spiWrData v) → t.spi.tx = []

/-- R343, under the reference layouts: what a guest reads right after a reset, from whatever state the reset came. -/
def Obligations.ReadsRightAfterReset : Prop :=
  ∀ s : State, s.params.uart = UartLayout.reference → s.params.spi = SpiLayout.reference →
    (∀ t, exec .uartEvReset s = .next t →
      t.uart.irq = false ∧ t.uart.cfg = 0#32 ∧
      (∃ u, exec .uartRdCtrl t = .next u ∧ u.answer = .value 0x00180000#32) ∧
      (∃ u, exec .uartRdData t = .next u ∧ u.answer = .value (s.params.uartDataInfo &&& 0xFFFFFF00#32) ∧
        u.uartLog = t.uartLog ++ [.guestProtocolError .dataReadEmpty])) ∧
    (∀ t, exec .spiEvReset s = .next t →
      t.spi.irq = false ∧ t.spi.cfg = 0#32 ∧ (∀ level ∈ t.spi.cs, level = true) ∧
      (∃ u, exec .spiRdCtrl t = .next u ∧ u.answer = .value 0x01860000#32) ∧
      (∃ u, exec .spiRdData t = .next u ∧ u.answer = .value 0#32 ∧
        u.spiLog = t.spiLog ++ [.guestProtocolError .dataReadEmpty]))

/-! ### Isolation -/

/-- DERIVED (20_memory.md R74). "each device instance owns its own FIFOs, control register, and select lines
exclusively": an event of one device changes nothing of the other, its histories and its log included. -/
def Obligations.AnEventLeavesTheOtherDeviceAlone : Prop :=
  ∀ (i : Instr) (s : State), ∃ t, exec i s = .next t ∧
    (i.device = .uart → t.spi = s.spi ∧ t.spiXfers = s.spiXfers ∧ t.spiLog = s.spiLog ∧
      t.spiResponses = s.spiResponses ∧ t.draws = s.draws) ∧
    (i.device = .spi → t.uart = s.uart ∧ t.uartOut = s.uartOut ∧ t.uartLog = s.uartLog)

/-- DERIVED (20_memory.md R74, 10_state.md R39; the response's inputs are log 6). What an event does to its device, and
what it answers, depends on that device, the parameters and, for the SPI, the downstream bus alone: on no log, history,
earlier answer or pending event, and on nothing of the other device. -/
def Obligations.AnEventDependsOnItsDeviceAlone : Prop :=
  ∀ (i : Instr) (s s' : State), s.params = s'.params →
    (i.device = .uart → s.uart = s'.uart →
      ∃ t t', exec i s = .next t ∧ exec i s' = .next t' ∧ t.uart = t'.uart ∧ t.answer = t'.answer) ∧
    (i.device = .spi → s.spi = s'.spi → s.spiResponses = s'.spiResponses → s.draws = s'.draws →
      ∃ t t', exec i s = .next t ∧ exec i s' = .next t' ∧ t.spi = t'.spi ∧ t.answer = t'.answer ∧
        t.spiResponses = t'.spiResponses ∧ t.draws = t'.draws)

/-- DERIVED (20_memory.md R74, R68; that instances have numbers, and `execAt`, are log 16). "Devices share nothing": an
event of one instance completes and leaves every other instance of both devices as it was, its parameters, its histories
and its log included; it changes no parameters of its own instance either, and detaches none. -/
def Obligations.AnEventReachesOnlyItsInstance : Prop :=
  ∀ (i : Instr) (inst : Nat) (s : State),
    (i.device = .uart → inst ≤ s.moreUarts.length) → (i.device = .spi → inst ≤ s.moreSpis.length) →
    ∃ t, execAt inst i s = .next t ∧ t.pending = s.pending ∧
      (∀ j, i.device = .spi ∨ j ≠ inst → t.uartAt j = s.uartAt j) ∧
      (∀ j, i.device = .uart ∨ j ≠ inst → t.spiAt j = s.spiAt j) ∧
      (t.uartAt inst).map (fun u => (u.params, u.attached)) = (s.uartAt inst).map (fun u => (u.params, u.attached)) ∧
      (t.spiAt inst).map (fun c => (c.params, c.attached)) = (s.spiAt inst).map (fun c => (c.params, c.attached))

/-- DERIVED (20_memory.md R74; `execAt` is log 16, the counter of draws log 6). Every instance of a device behaves as the
first would in its place: an event of instance `inst` gives the answer, and leaves the state, history and log of that
instance, that exec gives and leaves when a state has that instance as its first, whatever else that state holds. -/
def Obligations.EveryInstanceBehavesAsTheFirst : Prop :=
  ∀ (i : Instr) (inst : Nat) (s s' : State),
    (∀ u, i.device = .uart → s.uartAt inst = some u →
      ∃ t t', execAt inst i s = .next t ∧ exec i (s'.putUart u) = .next t' ∧
        t.uartAt inst = some t'.firstUart ∧ t.answer = t'.answer) ∧
    (∀ c, i.device = .spi → s.spiAt inst = some c → s.draws = s'.draws →
      ∃ t t', execAt inst i s = .next t ∧ exec i (s'.putSpi c) = .next t' ∧
        t.spiAt inst = some t'.firstSpi ∧ t.answer = t'.answer ∧ t.draws = t'.draws)

/-- DERIVED (20_memory.md R74, 10_state.md R44, R26, 60_exceptions.md R303; `attachUart` and `attachSpi` are log 16). A
further instance is attached after those there are, with its registers zeroed, its FIFOs empty, `irq` deasserted and every
line high; a further SPI controller with no line is rejected; and if the windows fit, a state between two events stays
one. -/
def Obligations.FurtherInstancesAttachInReset : Prop :=
  (∀ (s : State) (p : UartParams),
    (s.attachUart p).uartAt (s.moreUarts.length + 1) = some ⟨p, true, ⟨0#32, [], false⟩, [], []⟩ ∧
    (∀ j, j ≤ s.moreUarts.length → (s.attachUart p).uartAt j = s.uartAt j) ∧
    (s.Inv → (s.attachUart p).configWf = true → (s.attachUart p).Inv)) ∧
  (∀ (s : State) (p : SpiParams) (n : Int), n ≤ 0 → s.attachSpi p n = .error .noChipSelectLine) ∧
  ∀ (s : State) (p : SpiParams) (n : Int), 0 < n →
    ∃ t c, s.attachSpi p n = .ok t ∧ t.spiAt (s.moreSpis.length + 1) = some c ∧
      (c.params.ncs.val : Int) = n ∧ c.attached = true ∧ c.params.layout = p.layout ∧ c.params.base = p.base ∧
      c.dev = ⟨0#32, [], [], List.replicate n.toNat true, false⟩ ∧ c.xfers = [] ∧ c.log = [] ∧
      (∀ j, j ≤ s.moreSpis.length → t.spiAt j = s.spiAt j) ∧
      (s.Inv → t.configWf = true → t.Inv)

/-- DERIVED (70_reset_and_hazards.md R340, 10_state.md R39; the request for a detach, and what its fields hold afterwards,
are log 23). The detach of an attached instance destroys its state: what is left in its fields is the state at attach,
whatever it held. Its histories and log stay, as do every other instance and the queue behind the request. Then an event
for it, or a second detach, is refused. -/
def Obligations.DetachDestroysTheInstance : Prop :=
  ∀ (s : State) (inst : Nat) (rest : List Request),
    (∀ u, s.uartAt inst = some u → u.attached = true → s.pending = .detach .uart inst :: rest →
      ∃ t, step s = .next t ∧ t.pending = rest ∧ t.answer = s.answer ∧
        t.uartAt inst = some { u with dev := ⟨0#32, [], false⟩, attached := false } ∧
        (∀ j, j ≠ inst → t.uartAt j = s.uartAt j) ∧ (∀ j, t.spiAt j = s.spiAt j) ∧
        ∀ r bytes, r = .event .uart inst bytes ∨ r = .detach .uart inst → ∀ more,
          step { t with pending := r :: more } = .refused .detached) ∧
    (∀ c, s.spiAt inst = some c → c.attached = true → s.pending = .detach .spi inst :: rest →
      ∃ t, step s = .next t ∧ t.pending = rest ∧ t.answer = s.answer ∧
        t.spiAt inst =
          some { c with dev := ⟨0#32, [], [], List.replicate c.params.ncs true, false⟩, attached := false } ∧
        (∀ j, j ≠ inst → t.spiAt j = s.spiAt j) ∧ (∀ j, t.uartAt j = s.uartAt j) ∧
        ∀ r bytes, r = .event .spi inst bytes ∨ r = .detach .spi inst → ∀ more,
          step { t with pending := r :: more } = .refused .detached)

/-- DERIVED (70_reset_and_hazards.md R340: "After detach, no event applies to the device"; that a detached instance decodes
no window and is never attached again is log 23). Whatever request a step takes, a guest access at any address among them,
a detached instance is the same after it: its fields, its histories, its log, and that it is detached. -/
def Obligations.NoStepChangesADetachedInstance : Prop :=
  ∀ (s t : State) (inst : Nat), step s = .next t →
    (∀ u, s.uartAt inst = some u → u.attached = false → t.uartAt inst = some u) ∧
    (∀ c, s.spiAt inst = some c → c.attached = false → t.spiAt inst = some c)

/-- DERIVED (45_uart_ops.md R207, R208). The UART's stored fields gate nothing: two states whose `cfg` agrees in the two
interrupt enables behave alike in every event but a CTRL read: same RX, line, answer, bytes sent and log. -/
def Obligations.UartStoredFieldsGateNothing : Prop :=
  ∀ (i : Instr) (s : State) (cfg : Word), i ≠ .uartRdCtrl →
    cfg.getLsbD s.params.uart.irqRxNempty = s.uart.cfg.getLsbD s.params.uart.irqRxNempty →
    cfg.getLsbD s.params.uart.irqTxEmpty = s.uart.cfg.getLsbD s.params.uart.irqTxEmpty →
    ∃ t t', exec i s = .next t ∧ exec i { s with uart := { s.uart with cfg := cfg } } = .next t' ∧
      t'.uart.rx = t.uart.rx ∧ t'.uart.irq = (if i.device = .uart then t.uart.irq else s.uart.irq) ∧
      t'.answer = t.answer ∧ t'.uartOut = t.uartOut ∧ t'.uartLog = t.uartLog

/-- DERIVED (46_spi_ops.md R248, R249). The SPI's enable, clock mode, prescaler and divider gate nothing: two states whose
`cfg` agrees in the interrupt enables, the select bits and the chip-select enable behave alike in every event but a CTRL
read: same FIFOs, lines, answer, exchanges and log. -/
def Obligations.SpiStoredFieldsGateNothing : Prop :=
  ∀ (i : Instr) (s : State) (cfg : Word), i ≠ .spiRdCtrl →
    (∀ k, k ∈ [s.params.spi.irqRxAvail, s.params.spi.irqTxEmpty, s.params.spi.irqTxNhalf, s.params.spi.csSel0,
        s.params.spi.csSel1, s.params.spi.csSel2, s.params.spi.csEn] → cfg.getLsbD k = s.spi.cfg.getLsbD k) →
    ∃ t t', exec i s = .next t ∧ exec i { s with spi := { s.spi with cfg := cfg } } = .next t' ∧
      t'.spi.rx = t.spi.rx ∧ t'.spi.tx = t.spi.tx ∧ t'.spi.cs = t.spi.cs ∧ t'.spi.irq = t.spi.irq ∧
      t'.answer = t.answer ∧ t'.spiXfers = t.spiXfers ∧ t'.spiLog = t.spiLog

/-! ### The spec's text form -/

/-- DERIVED (30_encoding.md R90; that a line acts on the first instance of the selected device is log 19). Each line spells
its event: the request it makes is fetched as the instruction of the table, while the device is attached. -/
def Obligations.AsmLinesSpellTheirEvents : Prop :=
  ∀ (s : State) (rest : List Request) (off : Offset) (w : Width) (v : Word) (b : Byte),
    off.toNat < s.params.regionSize → s.uartAttached = true → s.spiAttached = true →
    let fetched := fun dev (line : AsmLine) => fetchRequest s (line.request dev) rest
    let runs := fun i => Fetched.run 0 i { s with pending := rest }
    (∀ dev, fetched dev (.rd off w) = runs (decodeRead dev off w)) ∧
    (∀ dev, fetched dev (.wr off w v) = runs (decodeWrite dev off w v)) ∧
    fetched .uart .evReset = runs .uartEvReset ∧
    fetched .spi .evReset = runs .spiEvReset ∧
    fetched .uart (.evDeliver b) = runs (.uartEvRxDeliver b) ∧
    fetched .uart .qCanrx = runs .uartQCanReceive

/-- DERIVED (30_encoding.md R91, 44_chip_select.md R182). `spi.select <cfg>, <i>` writes CTRL so that line `i` is low and
every other line high when N > i, and keeps the guest's other configuration bits; `spi.deselect` leaves every line
high. -/
def Obligations.SpiSelectPseudoInstructionSelects : Prop :=
  ∀ (s : State) (cfg : Word) (i : Fin 3), s.params.wf = true → i.val < s.params.ncs →
    (∃ t v, asmSpiSelect s.params.spi cfg i = .wr 0#24 4#6 v ∧ exec (.spiWrCtrl v) s = .next t ∧
      (∀ k : Nat, k < s.params.ncs → t.spi.cs[k]? = some (decide (k ≠ i.val))) ∧
      t.spi.cfg &&& ~~~asmSelMask s.params.spi = cfg &&& s.params.spi.wmask &&& ~~~asmSelMask s.params.spi) ∧
    (∃ t v, asmSpiDeselect s.params.spi cfg = .wr 0#24 4#6 v ∧ exec (.spiWrCtrl v) s = .next t ∧
      t.spi.cs = List.replicate s.params.ncs true)
end

