-- ==== Sys2Proof/Laws/Bits.lean ====
section
/-! SUPPORT. The bits of the words that a layout gives: single bits, ranges, unions, and what it means that the fields
of a layout are pairwise disjoint (R28); and the status words inside the read-only mask. -/

namespace Sys2Proof

theorem getLsbD_bit (i j : Nat) : (bit i).getLsbD j = (decide (j < 32) && decide (j = i)) := by
  simp only [bit, BitVec.getLsbD_shiftLeft, BitVec.getLsbD_one]
  by_cases h : j < 32 <;> by_cases h2 : j = i <;> by_cases h3 : j < i <;> simp [h, h2, h3]
  all_goals omega

theorem getLsbD_flagBit (i j : Nat) (flag : Bool) :
    (flagBit i flag).getLsbD j = (decide (j < 32) && decide (j = i) && flag) := by
  cases flag <;> simp [flagBit, getLsbD_bit]

theorem Field.getLsbD_mask (f : Field) (j : Nat) :
    f.mask.getLsbD j = (decide (j < 32) && decide (f.lsb ≤ j) && decide (j < f.lsb + f.width)) := by
  simp only [Field.mask, BitVec.getLsbD_shiftLeft, BitVec.getLsbD_setWidth, BitVec.getLsbD_allOnes]
  by_cases h : j < 32 <;> by_cases h2 : f.lsb ≤ j <;> simp [h, h2]
  all_goals by_cases h3 : j < f.lsb + f.width <;> simp [h3] <;> omega

theorem getLsbD_unionMask (fs : List Field) (j : Nat) :
    (unionMask fs).getLsbD j = fs.any fun f => f.mask.getLsbD j := by
  induction fs with
  | nil => simp [unionMask]
  | cons f fs ih => simpa [unionMask] using congrArg (f.mask.getLsbD j || ·) ih

theorem bitField_getLsbD_mask (i j : Nat) :
    (bitField i).mask.getLsbD j = (decide (j < 32) && decide (j = i)) := by
  rw [Field.getLsbD_mask]
  by_cases h : j = i
  · simp [bitField, h]
  · have : ¬(i ≤ j ∧ j < i + 1) := by omega
    by_cases h2 : i ≤ j <;> simp [bitField, h, h2]
    all_goals omega

/-! ### Well-formed lists of fields -/

theorem fieldsWf_inWord {fs : List Field} (h : fieldsWf fs = true) {f : Field} (hf : f ∈ fs) :
    1 ≤ f.width ∧ f.lsb + f.width ≤ 32 := by
  induction fs with
  | nil => cases hf
  | cons g gs ih =>
    simp only [fieldsWf, Field.inWord, Bool.and_eq_true, decide_eq_true_eq] at h
    rcases List.mem_cons.1 hf with rfl | hf
    · exact h.1.1
    · exact ih h.2 hf

theorem Field.disjoint_bits {f g : Field} (h : f.disjoint g = true) (j : Nat) :
    ¬(f.mask.getLsbD j = true ∧ g.mask.getLsbD j = true) := by
  simp only [Field.disjoint, Bool.or_eq_true, decide_eq_true_eq] at h
  simp only [Field.getLsbD_mask, Bool.and_eq_true, decide_eq_true_eq]
  omega

theorem fieldsWf_pairwise {fs : List Field} (h : fieldsWf fs = true) :
    fs.Pairwise fun f g => f.disjoint g = true := by
  induction fs with
  | nil => exact .nil
  | cons f fs ih =>
    simp only [fieldsWf, Bool.and_eq_true, List.all_eq_true] at h
    exact .cons h.1.2 (ih h.2)

/-- No bit of the word belongs to a field of each part of a well-formed list. -/
theorem fieldsWf_append_disjoint {fs gs : List Field} (h : fieldsWf (fs ++ gs) = true) (j : Nat) :
    ¬((unionMask fs).getLsbD j = true ∧ (unionMask gs).getLsbD j = true) := by
  have hp := (List.pairwise_append.1 (fieldsWf_pairwise h)).2.2
  simp only [getLsbD_unionMask, List.any_eq_true]
  rintro ⟨⟨f, hf, hfj⟩, g, hg, hgj⟩
  exact Field.disjoint_bits (hp f hf g hg) j ⟨hfj, hgj⟩

theorem UartLayout.masks_disjoint {l : UartLayout} (h : l.wf = true) (j : Nat) :
    ¬(l.wmask.getLsbD j = true ∧ l.romask.getLsbD j = true) :=
  fieldsWf_append_disjoint h j

theorem SpiLayout.masks_disjoint {l : SpiLayout} (h : l.wf = true) (j : Nat) :
    ¬(l.wmask.getLsbD j = true ∧ l.romask.getLsbD j = true) := by
  simp only [SpiLayout.wf, Bool.and_eq_true] at h
  exact fieldsWf_append_disjoint h.1 j

/-- Two words agree when their bits below 32 do. -/
theorem word_ext {v w : Word} (h : ∀ j, j < 32 → v.getLsbD j = w.getLsbD j) : v = w :=
  BitVec.eq_of_getLsbD_eq fun j hj => h j hj

theorem and_not_eq_zero_iff {v m : Word} :
    v &&& ~~~m = 0#32 ↔ ∀ j, v.getLsbD j = true → m.getLsbD j = true := by
  constructor
  · intro h j hj
    have := congrArg (fun w : Word => w.getLsbD j) h
    have hlt : j < 32 := BitVec.lt_of_getLsbD hj
    simpa [hj, hlt] using this
  · intro h
    refine word_ext fun j hj => ?_
    have := h j
    cases hv : v.getLsbD j <;> simp_all

/-! ### The places of the fields of a well-formed list -/

theorem fieldsWf_getElem_disjoint {fs : List Field} (h : fieldsWf fs = true) {f g : Field} {i j : Nat}
    (hi : fs[i]? = some f) (hj : fs[j]? = some g) (hij : i ≠ j) (k : Nat) :
    ¬(f.mask.getLsbD k = true ∧ g.mask.getLsbD k = true) := by
  have hp := List.pairwise_iff_getElem.1 (fieldsWf_pairwise h)
  obtain ⟨hi1, hi2⟩ := List.getElem?_eq_some_iff.1 hi
  obtain ⟨hj1, hj2⟩ := List.getElem?_eq_some_iff.1 hj
  rcases Nat.lt_or_gt_of_ne hij with hlt | hlt
  · have := hp i j hi1 hj1 hlt
    rw [hi2, hj2] at this
    exact Field.disjoint_bits this k
  · have := hp j i hj1 hi1 hlt
    rw [hi2, hj2] at this
    rw [and_comm]
    exact Field.disjoint_bits this k

theorem fieldsWf_bit_lt {fs : List Field} (h : fieldsWf fs = true) {a i : Nat}
    (hi : fs[i]? = some (bitField a)) : a < 32 := by
  have hlt := (fieldsWf_inWord h (List.mem_of_getElem? hi)).2
  simp only [bitField] at hlt
  omega

/-- Two one-bit fields at different places of the list are different bits. -/
theorem fieldsWf_bit_ne {fs : List Field} (h : fieldsWf fs = true) {a b i j : Nat}
    (hi : fs[i]? = some (bitField a)) (hj : fs[j]? = some (bitField b)) (hij : i ≠ j) : a ≠ b := by
  rintro rfl
  have hd := fieldsWf_getElem_disjoint h hi hj hij a
  simp only [bitField_getLsbD_mask, fieldsWf_bit_lt h hi, decide_true, Bool.and_self, and_self, not_true] at hd

/-! ### A stored word beside a status word -/

/-- Where the read-only mask has a bit, the union of a stored word and a status word shows the status. -/
theorem getLsbD_or_of_romask {v st wm rm : Word} {k : Nat} (hd : ¬(wm.getLsbD k = true ∧ rm.getLsbD k = true))
    (hv : v &&& ~~~wm = 0#32) (hr : rm.getLsbD k = true) : (v ||| st).getLsbD k = st.getLsbD k := by
  have := (and_not_eq_zero_iff.1 hv) k
  rw [BitVec.getLsbD_or]
  cases h : v.getLsbD k <;> simp_all

/-- Inside the writable mask it is the stored word. -/
theorem or_and_wmask {v st wm rm : Word} (hd : ∀ k, ¬(wm.getLsbD k = true ∧ rm.getLsbD k = true))
    (hv : v &&& ~~~wm = 0#32) (hs : ∀ k, st.getLsbD k = true → rm.getLsbD k = true) : (v ||| st) &&& wm = v := by
  refine word_ext fun j hj => ?_
  have h1 := (and_not_eq_zero_iff.1 hv) j
  have h2 := hd j
  have h3 := hs j
  simp only [BitVec.getLsbD_and, BitVec.getLsbD_or]
  cases a : v.getLsbD j <;> cases b : st.getLsbD j <;> cases c : wm.getLsbD j <;> simp_all

/-- The two bits of a size field that holds 3. -/
theorem getLsbD_three_shiftLeft (lsb k : Nat) :
    ((3#32) <<< lsb).getLsbD k = (decide (k < 32) && (decide (k = lsb) || decide (k = lsb + 1))) := by
  simp only [BitVec.getLsbD_shiftLeft]
  by_cases h : k < 32 <;> simp [h]
  by_cases h1 : k < lsb
  · simp [h1]; omega
  · obtain ⟨m, rfl⟩ := Nat.exists_eq_add_of_le (Nat.not_lt.1 h1)
    match m with
    | 0 => simp
    | 1 => simp
    | m + 2 =>
      have : (3#32).getLsbD (m + 2) = false := by
        rw [BitVec.getLsbD]
        exact Nat.testBit_lt_two_pow (Nat.lt_of_lt_of_le (by decide : (3#32).toNat < 2 ^ 2)
          (Nat.pow_le_pow_right (by decide) (by omega)))
      simp [this]

namespace Machine

/-! ### The status words lie inside the read-only masks -/

theorem uartStatus_in_romask (l : UartLayout) (u : Uart) (j : Nat)
    (h : (uartStatus l u).getLsbD j = true) : l.romask.getLsbD j = true := by
  simp only [uartStatus, BitVec.getLsbD_or, getLsbD_flagBit, Bool.or_eq_true, Bool.and_eq_true] at h
  simp only [UartLayout.romask, getLsbD_unionMask, UartLayout.roFields, List.any_cons, List.any_nil,
    bitField_getLsbD_mask, Bool.or_eq_true, Bool.and_eq_true]
  tauto

theorem spiStatus_in_romask {l : SpiLayout} (hw : l.wf = true) (s : Spi) (j : Nat)
    (h : (spiStatus l s).getLsbD j = true) : l.romask.getLsbD j = true := by
  have hsize : (spiFifoSize <<< l.fifoSize.lsb).getLsbD j = true → l.fifoSize.mask.getLsbD j = true := by
    simp only [SpiLayout.wf, Bool.and_eq_true, beq_iff_eq] at hw
    simp only [BitVec.getLsbD_shiftLeft, Field.getLsbD_mask, hw.2, Bool.and_eq_true, Bool.not_eq_true',
      decide_eq_true_eq, decide_eq_false_iff_not]
    rintro ⟨⟨h1, h2⟩, h3⟩
    refine ⟨⟨h1, by omega⟩, ?_⟩
    by_contra hc
    have h4 : 4 ≤ j - l.fifoSize.lsb := by omega
    have h5 : spiFifoSize.toNat < 2 ^ (j - l.fifoSize.lsb) :=
      Nat.lt_of_lt_of_le (by decide : spiFifoSize.toNat < 2 ^ 4) (Nat.pow_le_pow_right (by decide) h4)
    rw [BitVec.getLsbD, Nat.testBit_lt_two_pow h5] at h3
    cases h3
  simp only [spiStatus, BitVec.getLsbD_or, getLsbD_flagBit, Bool.or_eq_true, Bool.and_eq_true] at h
  simp only [SpiLayout.romask, getLsbD_unionMask, SpiLayout.roFields, List.any_cons, List.any_nil,
    bitField_getLsbD_mask, Bool.or_eq_true, Bool.and_eq_true]
  tauto

/-! ### The interrupt levels as the formulas of R162 and R164 -/

theorem uartIrqLevel_eq (l : UartLayout) (u : Uart) :
    uartIrqLevel l u =
      (u.cfg.getLsbD l.irqTxEmpty || (u.cfg.getLsbD l.irqRxNempty && decide (0 < u.rx.length))) := by
  have hlt : ∀ i, u.cfg.getLsbD i = true → i < 32 := fun i hi => BitVec.lt_of_getLsbD hi
  have hemp : u.rxNempty = decide (0 < u.rx.length) := by
    cases h : u.rx <;> simp [Uart.rxNempty, fifoIsEmpty, occupancy, h]
  have h1 : (uartIe l u).getLsbD l.irqRxNempty = u.cfg.getLsbD l.irqRxNempty := by
    cases h : u.cfg.getLsbD l.irqRxNempty <;> simp [uartIe, getLsbD_bit, h]
    exact Or.inl (hlt _ h)
  have h2 : (uartIe l u).getLsbD l.irqTxEmpty = u.cfg.getLsbD l.irqTxEmpty := by
    cases h : u.cfg.getLsbD l.irqTxEmpty <;> simp [uartIe, getLsbD_bit, h]
    exact Or.inr (hlt _ h)
  simp [uartIrqLevel, irqLevel, uartIrqPairs, h1, h2, hemp, Uart.txEmpty, Bool.or_comm]

theorem spiIrqLevel_eq (l : SpiLayout) (s : Spi) :
    spiIrqLevel l s =
      ((s.cfg.getLsbD l.irqRxAvail && decide (0 < s.rx.length)) ||
        (s.cfg.getLsbD l.irqTxEmpty && decide (s.tx.length = 0)) ||
        (s.cfg.getLsbD l.irqTxNhalf && decide (s.tx.length < 4))) := by
  have hlt : ∀ i, s.cfg.getLsbD i = true → i < 32 := fun i hi => BitVec.lt_of_getLsbD hi
  have hrx : s.rxAvail = decide (0 < s.rx.length) := by
    cases h : s.rx <;> simp [Spi.rxAvail, fifoIsEmpty, occupancy, h]
  have htx : s.txEmpty = decide (s.tx.length = 0) := by
    cases h : s.tx <;> simp [Spi.txEmpty, fifoIsEmpty, occupancy, h]
  have hnh : s.txNhalf = decide (s.tx.length < 4) := by
    change (!decide (4 ≤ s.tx.length)) = decide (s.tx.length < 4)
    by_cases h : s.tx.length < 4
    · simp [h]
    · simp [h, Nat.not_lt.1 h]
  have h1 : (spiIe l s).getLsbD l.irqRxAvail = s.cfg.getLsbD l.irqRxAvail := by
    cases h : s.cfg.getLsbD l.irqRxAvail <;> simp [spiIe, getLsbD_bit, h]
    exact Or.inl (Or.inl (hlt _ h))
  have h2 : (spiIe l s).getLsbD l.irqTxEmpty = s.cfg.getLsbD l.irqTxEmpty := by
    cases h : s.cfg.getLsbD l.irqTxEmpty <;> simp [spiIe, getLsbD_bit, h]
    exact Or.inl (Or.inr (hlt _ h))
  have h3 : (spiIe l s).getLsbD l.irqTxNhalf = s.cfg.getLsbD l.irqTxNhalf := by
    cases h : s.cfg.getLsbD l.irqTxNhalf <;> simp [spiIe, getLsbD_bit, h]
    exact Or.inr (hlt _ h)
  simp [spiIrqLevel, irqLevel, spiIrqPairs, h1, h2, h3, hrx, htx, hnh, Bool.or_assoc]

end Machine

end Sys2Proof
end

