-- ==== Sys2Proof/Laws/Encoding.lean ====
section
/-! SUPPORT. Little-endian bytes and words are inverse, the descriptor's fields are read back, and the decoder on the
bytes of a descriptor with its payload. -/

namespace Sys2Proof

theorem wordOfBytes_bytesOfWord (v : Word) : wordOfBytes (bytesOfWord v) = v := by
  refine BitVec.eq_of_getLsbD_eq fun j hj => ?_
  simp only [bytesOfWord, wordOfBytes, BitVec.getLsbD_or, BitVec.getLsbD_shiftLeft, BitVec.getLsbD_setWidth,
    BitVec.getLsbD_extractLsb', BitVec.getLsbD_zero]
  interval_cases j <;> simp

theorem bytesOfWord_wordOfBytes (b0 b1 b2 b3 : Byte) :
    bytesOfWord (wordOfBytes [b0, b1, b2, b3]) = [b0, b1, b2, b3] := by
  simp only [bytesOfWord, wordOfBytes, List.cons.injEq, and_true]
  refine ⟨?_, ?_, ?_, ?_⟩ <;>
  · refine BitVec.eq_of_getLsbD_eq fun j hj => ?_
    simp only [BitVec.getLsbD_or, BitVec.getLsbD_shiftLeft, BitVec.getLsbD_setWidth,
      BitVec.getLsbD_extractLsb', BitVec.getLsbD_zero]
    interval_cases j <;> simp

@[simp] theorem bytesOfWord_length (v : Word) : (bytesOfWord v).length = 4 := rfl

@[simp] theorem wordOfBytes_singleton (b : Byte) : wordOfBytes [b] = b.setWidth 32 := by
  simp [wordOfBytes]

@[simp] theorem kindOf_mkDescriptor (k : BitVec 2) (w : Width) (f : Offset) : kindOf (mkDescriptor k w f) = k := by
  refine BitVec.eq_of_getLsbD_eq fun j hj => ?_
  simp only [kindOf, mkDescriptor, BitVec.getLsbD_extractLsb', BitVec.getLsbD_append]
  interval_cases j <;> simp

@[simp] theorem widthOf_mkDescriptor (k : BitVec 2) (w : Width) (f : Offset) : widthOf (mkDescriptor k w f) = w := by
  refine BitVec.eq_of_getLsbD_eq fun j hj => ?_
  simp only [widthOf, mkDescriptor, BitVec.getLsbD_extractLsb', BitVec.getLsbD_append]
  interval_cases j <;> simp

@[simp] theorem fieldOf_mkDescriptor (k : BitVec 2) (w : Width) (f : Offset) : fieldOf (mkDescriptor k w f) = f := by
  refine BitVec.eq_of_getLsbD_eq fun j hj => ?_
  simp only [fieldOf, mkDescriptor, BitVec.getLsbD_extractLsb', BitVec.getLsbD_append]
  simp [hj]

theorem mkDescriptor_eta (d : Word) : mkDescriptor (kindOf d) (widthOf d) (fieldOf d) = d := by
  refine BitVec.eq_of_getLsbD_eq fun j hj => ?_
  simp only [kindOf, widthOf, fieldOf, mkDescriptor, BitVec.getLsbD_extractLsb', BitVec.getLsbD_append]
  interval_cases j <;> simp

/-- Descriptors agree exactly when their fields do. -/
theorem mkDescriptor_inj {k k' : BitVec 2} {w w' : Width} {f f' : Offset} :
    mkDescriptor k w f = mkDescriptor k' w' f' ↔ k = k' ∧ w = w' ∧ f = f' := by
  constructor
  · intro h
    have h1 := congrArg kindOf h
    have h2 := congrArg widthOf h
    have h3 := congrArg fieldOf h
    simp only [kindOf_mkDescriptor, widthOf_mkDescriptor, fieldOf_mkDescriptor] at h1 h2 h3
    exact ⟨h1, h2, h3⟩
  · rintro ⟨rfl, rfl, rfl⟩
    rfl

/-! ### The fields as numbers -/

theorem kindOf_toNat (d : Word) : (kindOf d).toNat = d.toNat / 2 ^ 30 := by
  have := d.isLt
  simp [kindOf, BitVec.extractLsb'_toNat, Nat.shiftRight_eq_div_pow]
  omega

theorem widthOf_toNat (d : Word) : (widthOf d).toNat = d.toNat / 2 ^ 24 % 64 := by
  simp [widthOf, BitVec.extractLsb'_toNat, Nat.shiftRight_eq_div_pow]

theorem fieldOf_toNat (d : Word) : (fieldOf d).toNat = d.toNat % 2 ^ 24 := by
  simp [fieldOf, BitVec.extractLsb'_toNat, Nat.shiftRight_eq_div_pow]

/-! ### The decoder on a descriptor given by its fields -/

theorem decodeDescriptor_mkDescriptor (regionSize : Nat) (dev : Device) (k : BitVec 2) (w : Width) (f : Offset)
    (payload : Word) :
    decodeDescriptor regionSize dev (mkDescriptor k w f) payload =
      if k = 3#2 then .error .reservedKind
      else if k = 2#2 then
        if w = 0#6 then decodeHostEvent dev f (payload.setWidth 8) else .error .eventWidthNonzero
      else if inWindow regionSize f then
        if k = 0#2 then .ok (decodeRead dev f w) else .ok (decodeWrite dev f w payload)
      else .error .notThisDevice := by
  simp [decodeDescriptor]

theorem payloadBytes_mkDescriptor (k : BitVec 2) (w : Width) (f : Offset) :
    payloadBytes (mkDescriptor k w f) = if k = 1#2 then 4 else if k = 2#2 ∧ f = 1#24 then 1 else 0 := by
  simp [payloadBytes]

theorem payloadBytes_le (d : Word) : payloadBytes d ≤ 4 := by
  unfold payloadBytes
  split <;> [omega; (split <;> omega)]

/-- The decoder on a descriptor's bytes followed by others. -/
theorem decode_bytesOfWord (regionSize : Nat) (dev : Device) (d : Word) (rest : List Byte) :
    decode regionSize dev (bytesOfWord d ++ rest) =
      match decodeDescriptor regionSize dev d (wordOfBytes (rest.take (payloadBytes d))) with
      | .error e => .error e
      | .ok i =>
        if rest.length < payloadBytes d then .error .truncatedEvent
        else .ok (i, rest.drop (payloadBytes d)) := by
  have h := wordOfBytes_bytesOfWord d
  simp only [bytesOfWord] at h
  cases hd : decodeDescriptor regionSize dev d (wordOfBytes (rest.take (payloadBytes d))) <;>
    simp only [bytesOfWord, List.cons_append, List.nil_append, decode, h, hd]

/-- Bytes that decode hold a whole descriptor. -/
theorem decode_ok_bytes {regionSize : Nat} {dev : Device} {bytes rest : List Byte} {i : Instr}
    (h : decode regionSize dev bytes = .ok (i, rest)) : ∃ d more, bytes = bytesOfWord d ++ more := by
  match bytes, h with
  | b0 :: b1 :: b2 :: b3 :: more, _ =>
    exact ⟨wordOfBytes [b0, b1, b2, b3], more, by rw [bytesOfWord_wordOfBytes]; rfl⟩

theorem decodeRead_device (dev : Device) (off : Offset) (w : Width) : (decodeRead dev off w).device = dev := by
  unfold decodeRead
  split
  · cases dev <;> rfl
  · split <;> cases dev <;> rfl

theorem decodeWrite_device (dev : Device) (off : Offset) (w : Width) (v : Word) :
    (decodeWrite dev off w v).device = dev := by
  unfold decodeWrite
  split
  · cases dev <;> rfl
  · split <;> cases dev <;> rfl

theorem decodeHostEvent_device {dev : Device} {evt : Offset} {b : Byte} {i : Instr}
    (h : decodeHostEvent dev evt b = .ok i) : i.device = dev := by
  unfold decodeHostEvent at h
  split at h
  · cases dev <;> cases h <;> rfl
  · split at h
    · cases dev <;> cases h; rfl
    · split at h
      · cases dev <;> cases h; rfl
      · cases h

theorem decodeDescriptor_device {regionSize : Nat} {dev : Device} {d v : Word} {i : Instr}
    (h : decodeDescriptor regionSize dev d v = .ok i) : i.device = dev := by
  unfold decodeDescriptor at h
  split at h
  · cases h
  · split at h
    · split at h
      · exact decodeHostEvent_device h
      · cases h
    · split at h
      · split at h <;> cases h
        · exact decodeRead_device ..
        · exact decodeWrite_device ..
      · cases h

/-- What decodes for a device is an instruction of that device. -/
theorem decode_device {regionSize : Nat} {dev : Device} {bytes rest : List Byte} {i : Instr}
    (h : decode regionSize dev bytes = .ok (i, rest)) : i.device = dev := by
  obtain ⟨d, more, rfl⟩ := decode_ok_bytes h
  rw [decode_bytesOfWord] at h
  split at h
  · cases h
  · split at h
    · cases h
    · obtain ⟨rfl, _⟩ := Prod.mk.inj (Except.ok.inj h)
      exact decodeDescriptor_device (by assumption)

end Sys2Proof
end

