-- ==== Sys2Proof/Laws/State.lean ====
section
/-! SUPPORT. What each update of State leaves in each field: one lemma per field per update. -/

namespace Sys2Proof.Machine

/-! ### withAnswer -/

@[simp] theorem State.withAnswer_params (s : State) (a : Answer) : (s.withAnswer a).params = s.params := rfl
@[simp] theorem State.withAnswer_uart (s : State) (a : Answer) : (s.withAnswer a).uart = s.uart := rfl
@[simp] theorem State.withAnswer_spi (s : State) (a : Answer) : (s.withAnswer a).spi = s.spi := rfl
@[simp] theorem State.withAnswer_uartOut (s : State) (a : Answer) :
    (s.withAnswer a).uartOut = s.uartOut := rfl
@[simp] theorem State.withAnswer_spiXfers (s : State) (a : Answer) :
    (s.withAnswer a).spiXfers = s.spiXfers := rfl
@[simp] theorem State.withAnswer_uartLog (s : State) (a : Answer) :
    (s.withAnswer a).uartLog = s.uartLog := rfl
@[simp] theorem State.withAnswer_spiLog (s : State) (a : Answer) : (s.withAnswer a).spiLog = s.spiLog := rfl
@[simp] theorem State.withAnswer_answer (s : State) (a : Answer) : (s.withAnswer a).answer = a := rfl
@[simp] theorem State.withAnswer_pending (s : State) (a : Answer) :
    (s.withAnswer a).pending = s.pending := rfl
@[simp] theorem State.withAnswer_spiResponses (s : State) (a : Answer) :
    (s.withAnswer a).spiResponses = s.spiResponses := rfl
@[simp] theorem State.withAnswer_draws (s : State) (a : Answer) : (s.withAnswer a).draws = s.draws := rfl
@[simp] theorem State.withAnswer_moreUarts (s : State) (a : Answer) :
    (s.withAnswer a).moreUarts = s.moreUarts := rfl
@[simp] theorem State.withAnswer_moreSpis (s : State) (a : Answer) :
    (s.withAnswer a).moreSpis = s.moreSpis := rfl
@[simp] theorem State.withAnswer_uartAttached (s : State) (a : Answer) :
    (s.withAnswer a).uartAttached = s.uartAttached := rfl
@[simp] theorem State.withAnswer_spiAttached (s : State) (a : Answer) :
    (s.withAnswer a).spiAttached = s.spiAttached := rfl

/-! ### logUart -/

@[simp] theorem State.logUart_params (s : State) (r : LogRecord) : (s.logUart r).params = s.params := rfl
@[simp] theorem State.logUart_uart (s : State) (r : LogRecord) : (s.logUart r).uart = s.uart := rfl
@[simp] theorem State.logUart_spi (s : State) (r : LogRecord) : (s.logUart r).spi = s.spi := rfl
@[simp] theorem State.logUart_uartOut (s : State) (r : LogRecord) : (s.logUart r).uartOut = s.uartOut := rfl
@[simp] theorem State.logUart_spiXfers (s : State) (r : LogRecord) :
    (s.logUart r).spiXfers = s.spiXfers := rfl
@[simp] theorem State.logUart_uartLog (s : State) (r : LogRecord) :
    (s.logUart r).uartLog = s.uartLog ++ [r] := rfl
@[simp] theorem State.logUart_spiLog (s : State) (r : LogRecord) : (s.logUart r).spiLog = s.spiLog := rfl
@[simp] theorem State.logUart_answer (s : State) (r : LogRecord) : (s.logUart r).answer = s.answer := rfl
@[simp] theorem State.logUart_pending (s : State) (r : LogRecord) : (s.logUart r).pending = s.pending := rfl
@[simp] theorem State.logUart_spiResponses (s : State) (r : LogRecord) :
    (s.logUart r).spiResponses = s.spiResponses := rfl
@[simp] theorem State.logUart_draws (s : State) (r : LogRecord) : (s.logUart r).draws = s.draws := rfl
@[simp] theorem State.logUart_moreUarts (s : State) (r : LogRecord) :
    (s.logUart r).moreUarts = s.moreUarts := rfl
@[simp] theorem State.logUart_moreSpis (s : State) (r : LogRecord) : (s.logUart r).moreSpis = s.moreSpis := rfl
@[simp] theorem State.logUart_uartAttached (s : State) (r : LogRecord) :
    (s.logUart r).uartAttached = s.uartAttached := rfl
@[simp] theorem State.logUart_spiAttached (s : State) (r : LogRecord) :
    (s.logUart r).spiAttached = s.spiAttached := rfl

/-! ### logSpi -/

@[simp] theorem State.logSpi_params (s : State) (r : LogRecord) : (s.logSpi r).params = s.params := rfl
@[simp] theorem State.logSpi_uart (s : State) (r : LogRecord) : (s.logSpi r).uart = s.uart := rfl
@[simp] theorem State.logSpi_spi (s : State) (r : LogRecord) : (s.logSpi r).spi = s.spi := rfl
@[simp] theorem State.logSpi_uartOut (s : State) (r : LogRecord) : (s.logSpi r).uartOut = s.uartOut := rfl
@[simp] theorem State.logSpi_spiXfers (s : State) (r : LogRecord) : (s.logSpi r).spiXfers = s.spiXfers := rfl
@[simp] theorem State.logSpi_uartLog (s : State) (r : LogRecord) : (s.logSpi r).uartLog = s.uartLog := rfl
@[simp] theorem State.logSpi_spiLog (s : State) (r : LogRecord) : (s.logSpi r).spiLog = s.spiLog ++ [r] := rfl
@[simp] theorem State.logSpi_answer (s : State) (r : LogRecord) : (s.logSpi r).answer = s.answer := rfl
@[simp] theorem State.logSpi_pending (s : State) (r : LogRecord) : (s.logSpi r).pending = s.pending := rfl
@[simp] theorem State.logSpi_spiResponses (s : State) (r : LogRecord) :
    (s.logSpi r).spiResponses = s.spiResponses := rfl
@[simp] theorem State.logSpi_draws (s : State) (r : LogRecord) : (s.logSpi r).draws = s.draws := rfl
@[simp] theorem State.logSpi_moreUarts (s : State) (r : LogRecord) : (s.logSpi r).moreUarts = s.moreUarts := rfl
@[simp] theorem State.logSpi_moreSpis (s : State) (r : LogRecord) : (s.logSpi r).moreSpis = s.moreSpis := rfl
@[simp] theorem State.logSpi_uartAttached (s : State) (r : LogRecord) :
    (s.logSpi r).uartAttached = s.uartAttached := rfl
@[simp] theorem State.logSpi_spiAttached (s : State) (r : LogRecord) :
    (s.logSpi r).spiAttached = s.spiAttached := rfl

/-! ### setUartCfg -/

@[simp] theorem State.setUartCfg_params (s : State) (v : Word) : (s.setUartCfg v).params = s.params := rfl
@[simp] theorem State.setUartCfg_uart (s : State) (v : Word) :
    (s.setUartCfg v).uart = { s.uart with cfg := v } := rfl
@[simp] theorem State.setUartCfg_spi (s : State) (v : Word) : (s.setUartCfg v).spi = s.spi := rfl
@[simp] theorem State.setUartCfg_uartOut (s : State) (v : Word) : (s.setUartCfg v).uartOut = s.uartOut := rfl
@[simp] theorem State.setUartCfg_spiXfers (s : State) (v : Word) :
    (s.setUartCfg v).spiXfers = s.spiXfers := rfl
@[simp] theorem State.setUartCfg_uartLog (s : State) (v : Word) : (s.setUartCfg v).uartLog = s.uartLog := rfl
@[simp] theorem State.setUartCfg_spiLog (s : State) (v : Word) : (s.setUartCfg v).spiLog = s.spiLog := rfl
@[simp] theorem State.setUartCfg_answer (s : State) (v : Word) : (s.setUartCfg v).answer = s.answer := rfl
@[simp] theorem State.setUartCfg_pending (s : State) (v : Word) : (s.setUartCfg v).pending = s.pending := rfl
@[simp] theorem State.setUartCfg_spiResponses (s : State) (v : Word) :
    (s.setUartCfg v).spiResponses = s.spiResponses := rfl
@[simp] theorem State.setUartCfg_draws (s : State) (v : Word) : (s.setUartCfg v).draws = s.draws := rfl
@[simp] theorem State.setUartCfg_moreUarts (s : State) (v : Word) :
    (s.setUartCfg v).moreUarts = s.moreUarts := rfl
@[simp] theorem State.setUartCfg_moreSpis (s : State) (v : Word) : (s.setUartCfg v).moreSpis = s.moreSpis := rfl
@[simp] theorem State.setUartCfg_uartAttached (s : State) (v : Word) :
    (s.setUartCfg v).uartAttached = s.uartAttached := rfl
@[simp] theorem State.setUartCfg_spiAttached (s : State) (v : Word) :
    (s.setUartCfg v).spiAttached = s.spiAttached := rfl

/-! ### setUartRx -/

@[simp] theorem State.setUartRx_params (s : State) (q : List Byte) : (s.setUartRx q).params = s.params := rfl
@[simp] theorem State.setUartRx_uart (s : State) (q : List Byte) :
    (s.setUartRx q).uart = { s.uart with rx := q } := rfl
@[simp] theorem State.setUartRx_spi (s : State) (q : List Byte) : (s.setUartRx q).spi = s.spi := rfl
@[simp] theorem State.setUartRx_uartOut (s : State) (q : List Byte) :
    (s.setUartRx q).uartOut = s.uartOut := rfl
@[simp] theorem State.setUartRx_spiXfers (s : State) (q : List Byte) :
    (s.setUartRx q).spiXfers = s.spiXfers := rfl
@[simp] theorem State.setUartRx_uartLog (s : State) (q : List Byte) :
    (s.setUartRx q).uartLog = s.uartLog := rfl
@[simp] theorem State.setUartRx_spiLog (s : State) (q : List Byte) : (s.setUartRx q).spiLog = s.spiLog := rfl
@[simp] theorem State.setUartRx_answer (s : State) (q : List Byte) : (s.setUartRx q).answer = s.answer := rfl
@[simp] theorem State.setUartRx_pending (s : State) (q : List Byte) :
    (s.setUartRx q).pending = s.pending := rfl
@[simp] theorem State.setUartRx_spiResponses (s : State) (q : List Byte) :
    (s.setUartRx q).spiResponses = s.spiResponses := rfl
@[simp] theorem State.setUartRx_draws (s : State) (q : List Byte) : (s.setUartRx q).draws = s.draws := rfl
@[simp] theorem State.setUartRx_moreUarts (s : State) (q : List Byte) :
    (s.setUartRx q).moreUarts = s.moreUarts := rfl
@[simp] theorem State.setUartRx_moreSpis (s : State) (q : List Byte) :
    (s.setUartRx q).moreSpis = s.moreSpis := rfl
@[simp] theorem State.setUartRx_uartAttached (s : State) (q : List Byte) :
    (s.setUartRx q).uartAttached = s.uartAttached := rfl
@[simp] theorem State.setUartRx_spiAttached (s : State) (q : List Byte) :
    (s.setUartRx q).spiAttached = s.spiAttached := rfl

/-! ### setSpiCfg -/

@[simp] theorem State.setSpiCfg_params (s : State) (v : Word) : (s.setSpiCfg v).params = s.params := rfl
@[simp] theorem State.setSpiCfg_uart (s : State) (v : Word) : (s.setSpiCfg v).uart = s.uart := rfl
@[simp] theorem State.setSpiCfg_spi (s : State) (v : Word) :
    (s.setSpiCfg v).spi = { s.spi with cfg := v } := rfl
@[simp] theorem State.setSpiCfg_uartOut (s : State) (v : Word) : (s.setSpiCfg v).uartOut = s.uartOut := rfl
@[simp] theorem State.setSpiCfg_spiXfers (s : State) (v : Word) : (s.setSpiCfg v).spiXfers = s.spiXfers := rfl
@[simp] theorem State.setSpiCfg_uartLog (s : State) (v : Word) : (s.setSpiCfg v).uartLog = s.uartLog := rfl
@[simp] theorem State.setSpiCfg_spiLog (s : State) (v : Word) : (s.setSpiCfg v).spiLog = s.spiLog := rfl
@[simp] theorem State.setSpiCfg_answer (s : State) (v : Word) : (s.setSpiCfg v).answer = s.answer := rfl
@[simp] theorem State.setSpiCfg_pending (s : State) (v : Word) : (s.setSpiCfg v).pending = s.pending := rfl
@[simp] theorem State.setSpiCfg_spiResponses (s : State) (v : Word) :
    (s.setSpiCfg v).spiResponses = s.spiResponses := rfl
@[simp] theorem State.setSpiCfg_draws (s : State) (v : Word) : (s.setSpiCfg v).draws = s.draws := rfl
@[simp] theorem State.setSpiCfg_moreUarts (s : State) (v : Word) :
    (s.setSpiCfg v).moreUarts = s.moreUarts := rfl
@[simp] theorem State.setSpiCfg_moreSpis (s : State) (v : Word) : (s.setSpiCfg v).moreSpis = s.moreSpis := rfl
@[simp] theorem State.setSpiCfg_uartAttached (s : State) (v : Word) :
    (s.setSpiCfg v).uartAttached = s.uartAttached := rfl
@[simp] theorem State.setSpiCfg_spiAttached (s : State) (v : Word) :
    (s.setSpiCfg v).spiAttached = s.spiAttached := rfl

/-! ### setSpiRx -/

@[simp] theorem State.setSpiRx_params (s : State) (q : List Byte) : (s.setSpiRx q).params = s.params := rfl
@[simp] theorem State.setSpiRx_uart (s : State) (q : List Byte) : (s.setSpiRx q).uart = s.uart := rfl
@[simp] theorem State.setSpiRx_spi (s : State) (q : List Byte) :
    (s.setSpiRx q).spi = { s.spi with rx := q } := rfl
@[simp] theorem State.setSpiRx_uartOut (s : State) (q : List Byte) : (s.setSpiRx q).uartOut = s.uartOut := rfl
@[simp] theorem State.setSpiRx_spiXfers (s : State) (q : List Byte) :
    (s.setSpiRx q).spiXfers = s.spiXfers := rfl
@[simp] theorem State.setSpiRx_uartLog (s : State) (q : List Byte) : (s.setSpiRx q).uartLog = s.uartLog := rfl
@[simp] theorem State.setSpiRx_spiLog (s : State) (q : List Byte) : (s.setSpiRx q).spiLog = s.spiLog := rfl
@[simp] theorem State.setSpiRx_answer (s : State) (q : List Byte) : (s.setSpiRx q).answer = s.answer := rfl
@[simp] theorem State.setSpiRx_pending (s : State) (q : List Byte) : (s.setSpiRx q).pending = s.pending := rfl
@[simp] theorem State.setSpiRx_spiResponses (s : State) (q : List Byte) :
    (s.setSpiRx q).spiResponses = s.spiResponses := rfl
@[simp] theorem State.setSpiRx_draws (s : State) (q : List Byte) : (s.setSpiRx q).draws = s.draws := rfl
@[simp] theorem State.setSpiRx_moreUarts (s : State) (q : List Byte) :
    (s.setSpiRx q).moreUarts = s.moreUarts := rfl
@[simp] theorem State.setSpiRx_moreSpis (s : State) (q : List Byte) :
    (s.setSpiRx q).moreSpis = s.moreSpis := rfl
@[simp] theorem State.setSpiRx_uartAttached (s : State) (q : List Byte) :
    (s.setSpiRx q).uartAttached = s.uartAttached := rfl
@[simp] theorem State.setSpiRx_spiAttached (s : State) (q : List Byte) :
    (s.setSpiRx q).spiAttached = s.spiAttached := rfl

/-! ### setSpiTx -/

@[simp] theorem State.setSpiTx_params (s : State) (q : List Byte) : (s.setSpiTx q).params = s.params := rfl
@[simp] theorem State.setSpiTx_uart (s : State) (q : List Byte) : (s.setSpiTx q).uart = s.uart := rfl
@[simp] theorem State.setSpiTx_spi (s : State) (q : List Byte) :
    (s.setSpiTx q).spi = { s.spi with tx := q } := rfl
@[simp] theorem State.setSpiTx_uartOut (s : State) (q : List Byte) : (s.setSpiTx q).uartOut = s.uartOut := rfl
@[simp] theorem State.setSpiTx_spiXfers (s : State) (q : List Byte) :
    (s.setSpiTx q).spiXfers = s.spiXfers := rfl
@[simp] theorem State.setSpiTx_uartLog (s : State) (q : List Byte) : (s.setSpiTx q).uartLog = s.uartLog := rfl
@[simp] theorem State.setSpiTx_spiLog (s : State) (q : List Byte) : (s.setSpiTx q).spiLog = s.spiLog := rfl
@[simp] theorem State.setSpiTx_answer (s : State) (q : List Byte) : (s.setSpiTx q).answer = s.answer := rfl
@[simp] theorem State.setSpiTx_pending (s : State) (q : List Byte) : (s.setSpiTx q).pending = s.pending := rfl
@[simp] theorem State.setSpiTx_spiResponses (s : State) (q : List Byte) :
    (s.setSpiTx q).spiResponses = s.spiResponses := rfl
@[simp] theorem State.setSpiTx_draws (s : State) (q : List Byte) : (s.setSpiTx q).draws = s.draws := rfl
@[simp] theorem State.setSpiTx_moreUarts (s : State) (q : List Byte) :
    (s.setSpiTx q).moreUarts = s.moreUarts := rfl
@[simp] theorem State.setSpiTx_moreSpis (s : State) (q : List Byte) :
    (s.setSpiTx q).moreSpis = s.moreSpis := rfl
@[simp] theorem State.setSpiTx_uartAttached (s : State) (q : List Byte) :
    (s.setSpiTx q).uartAttached = s.uartAttached := rfl
@[simp] theorem State.setSpiTx_spiAttached (s : State) (q : List Byte) :
    (s.setSpiTx q).spiAttached = s.spiAttached := rfl

/-! ### emitTx -/

@[simp] theorem State.emitTx_params (s : State) (b : Byte) : (s.emitTx b).params = s.params := rfl
@[simp] theorem State.emitTx_uart (s : State) (b : Byte) : (s.emitTx b).uart = s.uart := rfl
@[simp] theorem State.emitTx_spi (s : State) (b : Byte) : (s.emitTx b).spi = s.spi := rfl
@[simp] theorem State.emitTx_uartOut (s : State) (b : Byte) : (s.emitTx b).uartOut = s.uartOut ++ [b] := rfl
@[simp] theorem State.emitTx_spiXfers (s : State) (b : Byte) : (s.emitTx b).spiXfers = s.spiXfers := rfl
@[simp] theorem State.emitTx_uartLog (s : State) (b : Byte) : (s.emitTx b).uartLog = s.uartLog := rfl
@[simp] theorem State.emitTx_spiLog (s : State) (b : Byte) : (s.emitTx b).spiLog = s.spiLog := rfl
@[simp] theorem State.emitTx_answer (s : State) (b : Byte) : (s.emitTx b).answer = s.answer := rfl
@[simp] theorem State.emitTx_pending (s : State) (b : Byte) : (s.emitTx b).pending = s.pending := rfl
@[simp] theorem State.emitTx_spiResponses (s : State) (b : Byte) :
    (s.emitTx b).spiResponses = s.spiResponses := rfl
@[simp] theorem State.emitTx_draws (s : State) (b : Byte) : (s.emitTx b).draws = s.draws := rfl
@[simp] theorem State.emitTx_moreUarts (s : State) (b : Byte) : (s.emitTx b).moreUarts = s.moreUarts := rfl
@[simp] theorem State.emitTx_moreSpis (s : State) (b : Byte) : (s.emitTx b).moreSpis = s.moreSpis := rfl
@[simp] theorem State.emitTx_uartAttached (s : State) (b : Byte) :
    (s.emitTx b).uartAttached = s.uartAttached := rfl
@[simp] theorem State.emitTx_spiAttached (s : State) (b : Byte) :
    (s.emitTx b).spiAttached = s.spiAttached := rfl

/-! ### recordXfer -/

@[simp] theorem State.recordXfer_params (s : State) (t r : Byte) : (s.recordXfer t r).params = s.params := rfl
@[simp] theorem State.recordXfer_uart (s : State) (t r : Byte) : (s.recordXfer t r).uart = s.uart := rfl
@[simp] theorem State.recordXfer_spi (s : State) (t r : Byte) : (s.recordXfer t r).spi = s.spi := rfl
@[simp] theorem State.recordXfer_uartOut (s : State) (t r : Byte) :
    (s.recordXfer t r).uartOut = s.uartOut := rfl
@[simp] theorem State.recordXfer_spiXfers (s : State) (t r : Byte) :
    (s.recordXfer t r).spiXfers = s.spiXfers ++ [⟨t, s.spi.cs, r⟩] := rfl
@[simp] theorem State.recordXfer_uartLog (s : State) (t r : Byte) :
    (s.recordXfer t r).uartLog = s.uartLog := rfl
@[simp] theorem State.recordXfer_spiLog (s : State) (t r : Byte) : (s.recordXfer t r).spiLog = s.spiLog := rfl
@[simp] theorem State.recordXfer_answer (s : State) (t r : Byte) : (s.recordXfer t r).answer = s.answer := rfl
@[simp] theorem State.recordXfer_pending (s : State) (t r : Byte) :
    (s.recordXfer t r).pending = s.pending := rfl
@[simp] theorem State.recordXfer_spiResponses (s : State) (t r : Byte) :
    (s.recordXfer t r).spiResponses = s.spiResponses := rfl
@[simp] theorem State.recordXfer_draws (s : State) (t r : Byte) : (s.recordXfer t r).draws = s.draws := rfl
@[simp] theorem State.recordXfer_moreUarts (s : State) (t r : Byte) :
    (s.recordXfer t r).moreUarts = s.moreUarts := rfl
@[simp] theorem State.recordXfer_moreSpis (s : State) (t r : Byte) :
    (s.recordXfer t r).moreSpis = s.moreSpis := rfl
@[simp] theorem State.recordXfer_uartAttached (s : State) (t r : Byte) :
    (s.recordXfer t r).uartAttached = s.uartAttached := rfl
@[simp] theorem State.recordXfer_spiAttached (s : State) (t r : Byte) :
    (s.recordXfer t r).spiAttached = s.spiAttached := rfl

/-! ### recomputeUart -/

@[simp] theorem State.recomputeUart_params (s : State) : s.recomputeUart.params = s.params := rfl
@[simp] theorem State.recomputeUart_uart (s : State) : s.recomputeUart.uart = s.uart.recompute s.params := rfl
@[simp] theorem State.recomputeUart_spi (s : State) : s.recomputeUart.spi = s.spi := rfl
@[simp] theorem State.recomputeUart_uartOut (s : State) : s.recomputeUart.uartOut = s.uartOut := rfl
@[simp] theorem State.recomputeUart_spiXfers (s : State) : s.recomputeUart.spiXfers = s.spiXfers := rfl
@[simp] theorem State.recomputeUart_uartLog (s : State) : s.recomputeUart.uartLog = s.uartLog := rfl
@[simp] theorem State.recomputeUart_spiLog (s : State) : s.recomputeUart.spiLog = s.spiLog := rfl
@[simp] theorem State.recomputeUart_answer (s : State) : s.recomputeUart.answer = s.answer := rfl
@[simp] theorem State.recomputeUart_pending (s : State) : s.recomputeUart.pending = s.pending := rfl
@[simp] theorem State.recomputeUart_spiResponses (s : State) :
    s.recomputeUart.spiResponses = s.spiResponses := rfl
@[simp] theorem State.recomputeUart_draws (s : State) : s.recomputeUart.draws = s.draws := rfl
@[simp] theorem State.recomputeUart_moreUarts (s : State) : s.recomputeUart.moreUarts = s.moreUarts := rfl
@[simp] theorem State.recomputeUart_moreSpis (s : State) : s.recomputeUart.moreSpis = s.moreSpis := rfl
@[simp] theorem State.recomputeUart_uartAttached (s : State) :
    s.recomputeUart.uartAttached = s.uartAttached := rfl
@[simp] theorem State.recomputeUart_spiAttached (s : State) : s.recomputeUart.spiAttached = s.spiAttached := rfl

/-! ### recomputeSpi -/

@[simp] theorem State.recomputeSpi_params (s : State) : s.recomputeSpi.params = s.params := rfl
@[simp] theorem State.recomputeSpi_uart (s : State) : s.recomputeSpi.uart = s.uart := rfl
@[simp] theorem State.recomputeSpi_spi (s : State) : s.recomputeSpi.spi = s.spi.recompute s.params := rfl
@[simp] theorem State.recomputeSpi_uartOut (s : State) : s.recomputeSpi.uartOut = s.uartOut := rfl
@[simp] theorem State.recomputeSpi_spiXfers (s : State) : s.recomputeSpi.spiXfers = s.spiXfers := rfl
@[simp] theorem State.recomputeSpi_uartLog (s : State) : s.recomputeSpi.uartLog = s.uartLog := rfl
@[simp] theorem State.recomputeSpi_spiLog (s : State) : s.recomputeSpi.spiLog = s.spiLog := rfl
@[simp] theorem State.recomputeSpi_answer (s : State) : s.recomputeSpi.answer = s.answer := rfl
@[simp] theorem State.recomputeSpi_pending (s : State) : s.recomputeSpi.pending = s.pending := rfl
@[simp] theorem State.recomputeSpi_spiResponses (s : State) :
    s.recomputeSpi.spiResponses = s.spiResponses := rfl
@[simp] theorem State.recomputeSpi_draws (s : State) : s.recomputeSpi.draws = s.draws := rfl
@[simp] theorem State.recomputeSpi_moreUarts (s : State) : s.recomputeSpi.moreUarts = s.moreUarts := rfl
@[simp] theorem State.recomputeSpi_moreSpis (s : State) : s.recomputeSpi.moreSpis = s.moreSpis := rfl
@[simp] theorem State.recomputeSpi_uartAttached (s : State) :
    s.recomputeSpi.uartAttached = s.uartAttached := rfl
@[simp] theorem State.recomputeSpi_spiAttached (s : State) : s.recomputeSpi.spiAttached = s.spiAttached := rfl

/-! ### submit -/

@[simp] theorem State.submit_params (s : State) (r : Request) : (s.submit r).params = s.params := rfl
@[simp] theorem State.submit_uart (s : State) (r : Request) : (s.submit r).uart = s.uart := rfl
@[simp] theorem State.submit_spi (s : State) (r : Request) : (s.submit r).spi = s.spi := rfl
@[simp] theorem State.submit_uartOut (s : State) (r : Request) : (s.submit r).uartOut = s.uartOut := rfl
@[simp] theorem State.submit_spiXfers (s : State) (r : Request) : (s.submit r).spiXfers = s.spiXfers := rfl
@[simp] theorem State.submit_uartLog (s : State) (r : Request) : (s.submit r).uartLog = s.uartLog := rfl
@[simp] theorem State.submit_spiLog (s : State) (r : Request) : (s.submit r).spiLog = s.spiLog := rfl
@[simp] theorem State.submit_answer (s : State) (r : Request) : (s.submit r).answer = s.answer := rfl
@[simp] theorem State.submit_pending (s : State) (r : Request) :
    (s.submit r).pending = s.pending ++ [r] := rfl
@[simp] theorem State.submit_spiResponses (s : State) (r : Request) :
    (s.submit r).spiResponses = s.spiResponses := rfl
@[simp] theorem State.submit_draws (s : State) (r : Request) : (s.submit r).draws = s.draws := rfl
@[simp] theorem State.submit_moreUarts (s : State) (r : Request) : (s.submit r).moreUarts = s.moreUarts := rfl
@[simp] theorem State.submit_moreSpis (s : State) (r : Request) : (s.submit r).moreSpis = s.moreSpis := rfl
@[simp] theorem State.submit_uartAttached (s : State) (r : Request) :
    (s.submit r).uartAttached = s.uartAttached := rfl
@[simp] theorem State.submit_spiAttached (s : State) (r : Request) :
    (s.submit r).spiAttached = s.spiAttached := rfl

/-! ### withEvent -/

@[simp] theorem State.withEvent_params (s : State) (dev : Device) (nbits w : Nat) :
    (s.withEvent dev nbits w).params = s.params := by cases dev <;> rfl
@[simp] theorem State.withEvent_uart (s : State) (dev : Device) (nbits w : Nat) :
    (s.withEvent dev nbits w).uart = s.uart := by cases dev <;> rfl
@[simp] theorem State.withEvent_spi (s : State) (dev : Device) (nbits w : Nat) :
    (s.withEvent dev nbits w).spi = s.spi := by cases dev <;> rfl
@[simp] theorem State.withEvent_uartOut (s : State) (dev : Device) (nbits w : Nat) :
    (s.withEvent dev nbits w).uartOut = s.uartOut := by cases dev <;> rfl
@[simp] theorem State.withEvent_spiXfers (s : State) (dev : Device) (nbits w : Nat) :
    (s.withEvent dev nbits w).spiXfers = s.spiXfers := by cases dev <;> rfl
@[simp] theorem State.withEvent_uartLog (s : State) (dev : Device) (nbits w : Nat) :
    (s.withEvent dev nbits w).uartLog = s.uartLog := by cases dev <;> rfl
@[simp] theorem State.withEvent_spiLog (s : State) (dev : Device) (nbits w : Nat) :
    (s.withEvent dev nbits w).spiLog = s.spiLog := by cases dev <;> rfl
@[simp] theorem State.withEvent_answer (s : State) (dev : Device) (nbits w : Nat) :
    (s.withEvent dev nbits w).answer = s.answer := by cases dev <;> rfl
@[simp] theorem State.withEvent_pending (s : State) (dev : Device) (nbits w : Nat) :
    (s.withEvent dev nbits w).pending = .event dev 0 (tableBytes nbits w) :: s.pending := by cases dev <;> rfl
@[simp] theorem State.withEvent_spiResponses (s : State) (dev : Device) (nbits w : Nat) :
    (s.withEvent dev nbits w).spiResponses = s.spiResponses := by cases dev <;> rfl
@[simp] theorem State.withEvent_draws (s : State) (dev : Device) (nbits w : Nat) :
    (s.withEvent dev nbits w).draws = s.draws := by cases dev <;> rfl
@[simp] theorem State.withEvent_moreUarts (s : State) (dev : Device) (nbits w : Nat) :
    (s.withEvent dev nbits w).moreUarts = s.moreUarts := by cases dev <;> rfl
@[simp] theorem State.withEvent_moreSpis (s : State) (dev : Device) (nbits w : Nat) :
    (s.withEvent dev nbits w).moreSpis = s.moreSpis := by cases dev <;> rfl

/-! ### Updates of Uart -/

@[simp] theorem Uart.driveIrq_cfg (u : Uart) (level : Bool) : (u.driveIrq level).cfg = u.cfg := rfl
@[simp] theorem Uart.driveIrq_rx (u : Uart) (level : Bool) : (u.driveIrq level).rx = u.rx := rfl
@[simp] theorem Uart.driveIrq_irq (u : Uart) (level : Bool) : (u.driveIrq level).irq = level := rfl
@[simp] theorem Uart.recompute_cfg (u : Uart) (p : Params) : (u.recompute p).cfg = u.cfg := rfl
@[simp] theorem Uart.recompute_rx (u : Uart) (p : Params) : (u.recompute p).rx = u.rx := rfl
@[simp] theorem Uart.recompute_irq (u : Uart) (p : Params) : (u.recompute p).irq = uartIrqLevel p.uart u := rfl

/-! ### Updates of Spi -/

@[simp] theorem Spi.driveIrq_cfg (s : Spi) (level : Bool) : (s.driveIrq level).cfg = s.cfg := rfl
@[simp] theorem Spi.driveIrq_rx (s : Spi) (level : Bool) : (s.driveIrq level).rx = s.rx := rfl
@[simp] theorem Spi.driveIrq_tx (s : Spi) (level : Bool) : (s.driveIrq level).tx = s.tx := rfl
@[simp] theorem Spi.driveIrq_cs (s : Spi) (level : Bool) : (s.driveIrq level).cs = s.cs := rfl
@[simp] theorem Spi.driveIrq_irq (s : Spi) (level : Bool) : (s.driveIrq level).irq = level := rfl
@[simp] theorem Spi.updateCs_cfg (s : Spi) (p : Params) : (s.updateCs p).cfg = s.cfg := rfl
@[simp] theorem Spi.updateCs_rx (s : Spi) (p : Params) : (s.updateCs p).rx = s.rx := rfl
@[simp] theorem Spi.updateCs_tx (s : Spi) (p : Params) : (s.updateCs p).tx = s.tx := rfl
@[simp] theorem Spi.updateCs_cs (s : Spi) (p : Params) : (s.updateCs p).cs = csLevels p s.cfg := rfl
@[simp] theorem Spi.updateCs_irq (s : Spi) (p : Params) : (s.updateCs p).irq = s.irq := rfl
@[simp] theorem Spi.recompute_cfg (s : Spi) (p : Params) : (s.recompute p).cfg = s.cfg := rfl
@[simp] theorem Spi.recompute_rx (s : Spi) (p : Params) : (s.recompute p).rx = s.rx := rfl
@[simp] theorem Spi.recompute_tx (s : Spi) (p : Params) : (s.recompute p).tx = s.tx := rfl
@[simp] theorem Spi.recompute_cs (s : Spi) (p : Params) : (s.recompute p).cs = csLevels p s.cfg := rfl
@[simp] theorem Spi.recompute_irq (s : Spi) (p : Params) : (s.recompute p).irq = spiIrqLevel p.spi s := rfl

end Sys2Proof.Machine
end

