-- ==== Sys2Proof/Laws/Ops.lean ====
section
/-! SUPPORT. What each shared operation can do: the FIFO primitives, one SPI exchange, the flush of the TX FIFO, the
chip-select router. The provers cite these instead of unfolding the operations. -/

namespace Sys2Proof.Machine

/-! ### FIFO buffers -/

theorem fifoPush_of_lt {cap : Nat} {q : List Byte} (b : Byte) (h : q.length < cap) :
    fifoPush cap q b = (q ++ [b], true) := if_pos h

theorem fifoPush_of_full {cap : Nat} {q : List Byte} (b : Byte) (h : cap ≤ q.length) :
    fifoPush cap q b = (q, false) := if_neg (Nat.not_lt.2 h)

/-- A push keeps the first `cap` bytes of the queue with the byte appended. -/
theorem fifoPush_fst_eq_take {cap : Nat} {q : List Byte} (b : Byte) (h : q.length ≤ cap) :
    (fifoPush cap q b).1 = (q ++ [b]).take cap := by
  by_cases hlt : q.length < cap
  · rw [fifoPush_of_lt b hlt, List.take_of_length_le (by simpa using hlt)]
  · have hcap : cap = q.length := by omega
    rw [fifoPush_of_full b (by omega), hcap, List.take_left']
    rfl

theorem fifoPush_length_le {cap : Nat} {q : List Byte} (b : Byte) (h : q.length ≤ cap) :
    (fifoPush cap q b).1.length ≤ cap := by
  rw [fifoPush_fst_eq_take b h]
  exact List.length_take_le ..

theorem fifoIsEmpty_iff {q : List Byte} : fifoIsEmpty q = true ↔ q = [] := by
  simp [fifoIsEmpty, occupancy]

theorem fifoIsFull_iff {cap : Nat} {q : List Byte} : fifoIsFull cap q = true ↔ q.length = cap := by
  simp [fifoIsFull, occupancy]

theorem fifoIsAtLeastHalfFull_iff {cap : Nat} {q : List Byte} :
    fifoIsAtLeastHalfFull cap q = true ↔ cap / 2 ≤ q.length :=
  decide_eq_true_iff

/-! ### One exchange (R244, R245) -/

@[simp] theorem State.setSpiTx_spiResponse (s : State) (q : List Byte) (t : Byte) :
    (s.setSpiTx q).spiResponse t = s.spiResponse t := rfl

theorem State.spiResponse_of_scheduled {s : State} {r : Byte} {rest : List Byte}
    (h : s.spiResponses = r :: rest) (t : Byte) : s.spiResponse t = r := by
  simp [State.spiResponse, h]

theorem State.spiResponse_of_draw {s : State} (h : s.spiResponses = []) (t : Byte) :
    s.spiResponse t = Config.spiResponse s.draws t s.spi.cs := by
  simp [State.spiResponse, h]

/-- All that one exchange does. -/
theorem State.exchange_eq (s : State) (t : Byte) :
    s.exchange t =
      { s with
        spi := { s.spi with rx := (fifoPush spiRxCap s.spi.rx (s.spiResponse t)).1 }
        spiXfers := s.spiXfers ++ [⟨t, s.spi.cs, s.spiResponse t⟩]
        spiLog := if s.spi.rx.length < spiRxCap then s.spiLog else s.spiLog ++ [.spiRxDrop (s.spiResponse t)]
        spiResponses := s.spiResponses.tail
        draws := if s.spiResponses = [] then s.draws + 1 else s.draws } := by
  by_cases h : s.spi.rx.length < spiRxCap <;> cases hr : s.spiResponses <;>
    simp [State.exchange, State.consumeResponse, State.recordXfer, State.setSpiRx, State.logSpi, fifoPush, h, hr]

section Exchange
variable (s : State) (t : Byte)

@[simp] theorem State.exchange_params : (s.exchange t).params = s.params := by rw [exchange_eq]
@[simp] theorem State.exchange_uart : (s.exchange t).uart = s.uart := by rw [exchange_eq]
@[simp] theorem State.exchange_uartOut : (s.exchange t).uartOut = s.uartOut := by rw [exchange_eq]
@[simp] theorem State.exchange_uartLog : (s.exchange t).uartLog = s.uartLog := by rw [exchange_eq]
@[simp] theorem State.exchange_answer : (s.exchange t).answer = s.answer := by rw [exchange_eq]
@[simp] theorem State.exchange_pending : (s.exchange t).pending = s.pending := by rw [exchange_eq]
@[simp] theorem State.exchange_moreUarts : (s.exchange t).moreUarts = s.moreUarts := by rw [exchange_eq]
@[simp] theorem State.exchange_moreSpis : (s.exchange t).moreSpis = s.moreSpis := by rw [exchange_eq]
@[simp] theorem State.exchange_uartAttached : (s.exchange t).uartAttached = s.uartAttached := by rw [exchange_eq]
@[simp] theorem State.exchange_spiAttached : (s.exchange t).spiAttached = s.spiAttached := by rw [exchange_eq]
@[simp] theorem State.exchange_spi_cfg : (s.exchange t).spi.cfg = s.spi.cfg := by rw [exchange_eq]
@[simp] theorem State.exchange_spi_tx : (s.exchange t).spi.tx = s.spi.tx := by rw [exchange_eq]
@[simp] theorem State.exchange_spi_cs : (s.exchange t).spi.cs = s.spi.cs := by rw [exchange_eq]
theorem State.exchange_spi_rx :
    (s.exchange t).spi.rx = (fifoPush spiRxCap s.spi.rx (s.spiResponse t)).1 := by rw [exchange_eq]
theorem State.exchange_spiXfers :
    (s.exchange t).spiXfers = s.spiXfers ++ [⟨t, s.spi.cs, s.spiResponse t⟩] := by rw [exchange_eq]

end Exchange

/-! ### The flush (R245) -/

@[simp] theorem State.flushBytes_nil (s : State) : State.flushBytes [] s = s := rfl

theorem State.flushBytes_cons (t : Byte) (rest : List Byte) (s : State) :
    State.flushBytes (t :: rest) s = State.flushBytes rest ((s.setSpiTx rest).exchange t) := rfl

/-- What a flush leaves alone, and that it keeps RX within its capacity. -/
theorem State.flushBytes_frame (q : List Byte) (s : State) :
    let t := State.flushBytes q s
    t.params = s.params ∧ t.uart = s.uart ∧ t.uartOut = s.uartOut ∧ t.uartLog = s.uartLog ∧
      t.answer = s.answer ∧ t.pending = s.pending ∧ t.spi.cfg = s.spi.cfg ∧ t.spi.cs = s.spi.cs ∧
      (s.spi.rx.length ≤ spiRxCap → t.spi.rx.length ≤ spiRxCap) ∧ (s.spi.tx = q → t.spi.tx = []) := by
  induction q generalizing s with
  | nil => simp
  | cons b q ih =>
    have h := ih ((s.setSpiTx q).exchange b)
    simp only [exchange_params, exchange_uart, exchange_uartOut, exchange_uartLog, exchange_answer,
      exchange_pending, exchange_spi_cfg, exchange_spi_cs, exchange_spi_tx, exchange_spi_rx, setSpiTx_params,
      setSpiTx_uart, setSpiTx_uartOut, setSpiTx_uartLog, setSpiTx_answer, setSpiTx_pending, setSpiTx_spi,
      setSpiTx_spiResponse] at h
    obtain ⟨h1, h2, h3, h4, h5, h6, h7, h8, h9, h10⟩ := h
    exact ⟨h1, h2, h3, h4, h5, h6, h7, h8, fun hl => h9 (fifoPush_length_le _ hl), fun _ => h10 trivial⟩

/-- A flush leaves the further instances, and what is attached, alone. -/
theorem State.flushBytes_instances (q : List Byte) (s : State) :
    (State.flushBytes q s).moreUarts = s.moreUarts ∧ (State.flushBytes q s).moreSpis = s.moreSpis ∧
      (State.flushBytes q s).uartAttached = s.uartAttached ∧ (State.flushBytes q s).spiAttached = s.spiAttached := by
  induction q generalizing s with
  | nil => exact ⟨rfl, rfl, rfl, rfl⟩
  | cons b q ih =>
    rw [flushBytes_cons]
    simpa using ih ((s.setSpiTx q).exchange b)

theorem take_take_append (n : Nat) (a c : List Byte) : (a.take n ++ c).take n = (a ++ c).take n := by
  simp only [List.take_append, List.take_take, Nat.min_self, List.length_take]
  congr 2
  omega

/-- What a flush records: one exchange for each byte of TX, oldest first, with the present levels; and, from an RX
within its capacity, each response pushed on RX or dropped with a log record. -/
theorem State.flushBytes_records (q : List Byte) (s : State) :
    ∃ xs, (State.flushBytes q s).spiXfers = s.spiXfers ++ xs ∧ xs.map SpiXfer.sent = q ∧
      (∀ x ∈ xs, x.cs = s.spi.cs) ∧
      (s.spi.rx.length ≤ spiRxCap →
        (State.flushBytes q s).spi.rx = (s.spi.rx ++ xs.map SpiXfer.response).take spiRxCap ∧
        (State.flushBytes q s).spiLog =
          s.spiLog ++ ((xs.map SpiXfer.response).drop (spiRxCap - s.spi.rx.length)).map LogRecord.spiRxDrop) := by
  induction q generalizing s with
  | nil => exact ⟨[], by simp, rfl, by simp, fun h => by simp [List.take_of_length_le h]⟩
  | cons b q ih =>
    obtain ⟨xs, h1, h2, h3, h4⟩ := ih ((s.setSpiTx q).exchange b)
    refine ⟨⟨b, s.spi.cs, s.spiResponse b⟩ :: xs, ?_, by simp [h2], ?_, fun hl => ?_⟩
    · rw [flushBytes_cons, h1, exchange_spiXfers]
      simp
    · intro x hx
      rcases List.mem_cons.1 hx with rfl | hx
      · rfl
      · simpa using h3 x hx
    · have hrx : ((s.setSpiTx q).exchange b).spi.rx = (s.spi.rx ++ [s.spiResponse b]).take spiRxCap := by
        rw [exchange_spi_rx]
        exact fifoPush_fst_eq_take _ hl
      have hlog : ((s.setSpiTx q).exchange b).spiLog =
          if s.spi.rx.length < spiRxCap then s.spiLog else s.spiLog ++ [.spiRxDrop (s.spiResponse b)] := by
        rw [exchange_eq]
        rfl
      obtain ⟨h5, h6⟩ := h4 (by rw [hrx]; exact List.length_take_le ..)
      rw [flushBytes_cons]
      constructor
      · rw [h5, hrx, take_take_append]
        simp
      · rw [h6, hlog, hrx]
        by_cases h : s.spi.rx.length < spiRxCap
        · have e1 : spiRxCap - s.spi.rx.length = (spiRxCap - (s.spi.rx.length + 1)) + 1 := by omega
          have e2 : min spiRxCap (s.spi.rx.length + 1) = s.spi.rx.length + 1 := by omega
          simp only [h, if_true, List.length_take, List.length_append, List.length_singleton, e2, e1,
            List.map_cons, List.drop_succ_cons]
        · have e1 : s.spi.rx.length = spiRxCap := by omega
          simp [e1]

/-- A flush empties TX, whatever it held (R245, R250). -/
theorem State.flush_spi_tx (s : State) : s.flush.spi.tx = [] :=
  (State.flushBytes_frame s.spi.tx s).2.2.2.2.2.2.2.2.2 rfl

/-- A flush of one byte is one exchange. -/
theorem State.flush_singleton {s : State} {b : Byte} (h : s.spi.tx = [b]) :
    s.flush = (s.setSpiTx []).exchange b := by
  simp [State.flush, h, State.flushBytes_cons]

/-! ### The chip-select router -/

theorem csLevels_length (p : Params) (cfg : Word) : (csLevels p cfg).length = p.ncs := by
  unfold csLevels
  split <;> simp

theorem csSelected_lt {p : Params} {cfg : Word} {k : Nat} (h : csSelected p cfg = some k) : k < p.ncs := by
  simp only [csSelected] at h
  split at h
  · simp_all
  · cases h

/-- Line `k` is low exactly when it is the selected one (R184). -/
theorem csLevels_getElem? (p : Params) (cfg : Word) {k : Nat} (hk : k < p.ncs) :
    (csLevels p cfg)[k]? = some (decide (csSelected p cfg ≠ some k)) := by
  unfold csLevels
  cases h : csSelected p cfg with
  | none => simp [hk]
  | some j =>
    by_cases hj : j = k
    · subst hj; simp [hk]
    · simp [hj, hk]

@[simp] theorem csSelected_zero (p : Params) : csSelected p 0#32 = none := by
  simp [csSelected]

@[simp] theorem csLevels_zero (p : Params) : csLevels p 0#32 = List.replicate p.ncs true := by
  simp [csLevels]

end Sys2Proof.Machine
end

