-- ==== Sys2Proof/Laws/Exec.lean ====
section
/-! SUPPORT. Each instruction's next state as an equation over the shared operations, by the case of its FIFO where it
has one: what a proof about exec rewrites with. -/

namespace Sys2Proof.Machine

theorem exec_uartRdCtrl (s : State) :
    exec .uartRdCtrl s = .next ((s.recomputeUart).withAnswer (.value (uartCtrlValue s.params.uart s.uart))) := rfl

theorem exec_uartWrCtrl (v : Word) (s : State) :
    exec (.uartWrCtrl v) s =
      .next (((s.setUartCfg (v &&& s.params.uart.wmask)).recomputeUart).withAnswer .nothing) := rfl

theorem exec_uartRdData_empty {s : State} (h : s.uart.rx = []) :
    exec .uartRdData s =
      .next (((s.logUart (.guestProtocolError .dataReadEmpty)).recomputeUart).withAnswer
        (.value (dataInfo s.params))) := by
  simp [exec, execUartRdData, h, fifoIsEmpty, occupancy]

theorem exec_uartRdData_cons {s : State} {b : Byte} {q : List Byte} (h : s.uart.rx = b :: q) :
    exec .uartRdData s = .next (((s.setUartRx q).recomputeUart).withAnswer (.value (uartDataWord s.params b))) := by
  simp [exec, execUartRdData, h, fifoIsEmpty, occupancy, fifoPop]

theorem exec_uartWrData (v : Word) (s : State) :
    exec (.uartWrData v) s = .next (((s.emitTx (dataByte v)).recomputeUart).withAnswer .nothing) := rfl

theorem exec_uartRdInvalid (off : Offset) (w : Width) (s : State) :
    exec (.uartRdInvalid off w) s =
      .next (((s.logUart (.guestProtocolError (.badRead off w))).recomputeUart).withAnswer (.value 0#32)) := rfl

theorem exec_uartWrInvalid (off : Offset) (w : Width) (v : Word) (s : State) :
    exec (.uartWrInvalid off w v) s =
      .next (((s.logUart (.guestProtocolError (.badWrite off w v))).recomputeUart).withAnswer .nothing) := rfl

theorem exec_uartEvReset (s : State) :
    exec .uartEvReset s = .next ((((s.setUartCfg 0#32).setUartRx []).recomputeUart).withAnswer .nothing) := rfl

theorem exec_uartEvRxDeliver_room {s : State} (b : Byte) (h : s.uart.rx.length < uartRxCap) :
    exec (.uartEvRxDeliver b) s =
      .next (((s.setUartRx (s.uart.rx ++ [b])).recomputeUart).withAnswer .nothing) := by
  simp [exec, execUartEvRxDeliver, fifoPush_of_lt b h]

theorem exec_uartEvRxDeliver_full {s : State} (b : Byte) (h : uartRxCap ≤ s.uart.rx.length) :
    exec (.uartEvRxDeliver b) s =
      .next ((((s.setUartRx s.uart.rx).logUart (.transportOverflow b)).recomputeUart).withAnswer .nothing) := by
  simp [exec, execUartEvRxDeliver, fifoPush_of_full b h]

theorem exec_uartQCanReceive (s : State) :
    exec .uartQCanReceive s =
      .next ((s.recomputeUart).withAnswer (.canReceive (!fifoIsFull uartRxCap s.uart.rx))) := rfl

theorem exec_spiRdCtrl (s : State) :
    exec .spiRdCtrl s = .next ((s.recomputeSpi).withAnswer (.value (spiCtrlValue s.params.spi s.spi))) := rfl

theorem exec_spiWrCtrl (v : Word) (s : State) :
    exec (.spiWrCtrl v) s =
      .next (((s.setSpiCfg (v &&& s.params.spi.wmask)).recomputeSpi).withAnswer .nothing) := rfl

theorem exec_spiRdData_empty {s : State} (h : s.spi.rx = []) :
    exec .spiRdData s =
      .next (((s.logSpi (.guestProtocolError .dataReadEmpty)).recomputeSpi).withAnswer (.value 0#32)) := by
  simp [exec, execSpiRdData, h, fifoIsEmpty, occupancy]

theorem exec_spiRdData_cons {s : State} {b : Byte} {q : List Byte} (h : s.spi.rx = b :: q) :
    exec .spiRdData s = .next (((s.setSpiRx q).recomputeSpi).withAnswer (.value (zext32 b))) := by
  simp [exec, execSpiRdData, h, fifoIsEmpty, occupancy, fifoPop]

theorem exec_spiWrData (v : Word) (s : State) :
    exec (.spiWrData v) s =
      .next ((((s.setSpiTx (fifoPush spiTxCap s.spi.tx (dataByte v)).1).flush).recomputeSpi).withAnswer .nothing) :=
  rfl

/-- From an empty TX FIFO a DATA write is exactly one exchange (R243, R251). -/
theorem exec_spiWrData_of_tx_empty {s : State} (v : Word) (h : s.spi.tx = []) :
    exec (.spiWrData v) s = .next (((s.exchange (dataByte v)).recomputeSpi).withAnswer .nothing) := by
  have hs : (s.setSpiTx [dataByte v]).setSpiTx [] = s := by
    simp [State.setSpiTx, ← h]
  rw [exec_spiWrData, h, fifoPush_of_lt _ (by decide), State.flush_singleton (b := dataByte v) rfl]
  simp [hs]

theorem exec_spiRdInvalid (off : Offset) (w : Width) (s : State) :
    exec (.spiRdInvalid off w) s =
      .next (((s.logSpi (.guestProtocolError (.badRead off w))).recomputeSpi).withAnswer (.value 0#32)) := rfl

theorem exec_spiWrInvalid (off : Offset) (w : Width) (v : Word) (s : State) :
    exec (.spiWrInvalid off w v) s =
      .next (((s.logSpi (.guestProtocolError (.badWrite off w v))).recomputeSpi).withAnswer .nothing) := rfl

theorem exec_spiEvReset (s : State) :
    exec .spiEvReset s =
      .next (((((s.setSpiCfg 0#32).setSpiRx []).setSpiTx []).recomputeSpi).withAnswer .nothing) := rfl

/-! ### Sequences of events -/

@[simp] theorem execAll_nil (s : State) : execAll [] s = .next s := rfl

theorem execAll_cons_next {i : Instr} {s t : State} (is : List Instr) (h : exec i s = .next t) :
    execAll (i :: is) s = execAll is t := by
  simp [execAll, h]

/-- The first event of a sequence that completes completes. -/
theorem execAll_cons_eq_next {i : Instr} {is : List Instr} {s u : State} (h : execAll (i :: is) s = .next u) :
    ∃ t, exec i s = .next t ∧ execAll is t = .next u := by
  simp only [execAll] at h
  split at h
  · exact ⟨_, by assumption, h⟩
  · cases h
  · cases h

end Sys2Proof.Machine
end

