-- ==== Sys2Proof/Laws/Instances.lean ====
section
/-! SUPPORT. The instances of a device: what `focus` does to each field, that it is its own inverse, and the state after
an instance has been brought into first place, changed there, and brought back. The provers cite these instead of
unfolding `focus`. -/

namespace Sys2Proof.Machine

/-! ### Parameters -/

@[simp] theorem Params.withUart_regionSize (p : Params) (u : UartParams) :
    (p.withUart u).regionSize = p.regionSize := rfl
@[simp] theorem Params.withSpi_regionSize (p : Params) (c : SpiParams) : (p.withSpi c).regionSize = p.regionSize := rfl
@[simp] theorem Params.withUart_uartParams (p : Params) (u : UartParams) : (p.withUart u).uartParams = u := rfl
@[simp] theorem Params.withSpi_spiParams (p : Params) (c : SpiParams) : (p.withSpi c).spiParams = c := rfl
@[simp] theorem Params.withUart_spiParams (p : Params) (u : UartParams) :
    (p.withUart u).spiParams = p.spiParams := rfl
@[simp] theorem Params.withSpi_uartParams (p : Params) (c : SpiParams) :
    (p.withSpi c).uartParams = p.uartParams := rfl
/-- The parameters with their own UART's put in again. -/
@[simp] theorem Params.withUart_self (p : Params) : p.withUart p.uartParams = p := rfl
@[simp] theorem Params.withSpi_self (p : Params) : p.withSpi p.spiParams = p := rfl
@[simp] theorem Params.withUart_withUart (p : Params) (u u' : UartParams) :
    (p.withUart u).withUart u' = p.withUart u' := rfl
@[simp] theorem Params.withSpi_withSpi (p : Params) (c c' : SpiParams) : (p.withSpi c).withSpi c' = p.withSpi c' := rfl

/-! ### putUart and putSpi -/

@[simp] theorem State.putUart_firstUart (s : State) (u : UartInstance) : (s.putUart u).firstUart = u := rfl
@[simp] theorem State.putSpi_firstSpi (s : State) (c : SpiInstance) : (s.putSpi c).firstSpi = c := rfl
@[simp] theorem State.putUart_firstSpi (s : State) (u : UartInstance) : (s.putUart u).firstSpi = s.firstSpi := rfl
@[simp] theorem State.putSpi_firstUart (s : State) (c : SpiInstance) : (s.putSpi c).firstUart = s.firstUart := rfl
@[simp] theorem State.putUart_self (s : State) : s.putUart s.firstUart = s := rfl
@[simp] theorem State.putSpi_self (s : State) : s.putSpi s.firstSpi = s := rfl

/-! ### focus -/

@[simp] theorem State.focus_zero (s : State) (dev : Device) : s.focus dev 0 = s := by cases dev <;> rfl
theorem State.focus_uart_succ (s : State) (k : Nat) : s.focus .uart (k + 1) = s.swapUart k := rfl
theorem State.focus_spi_succ (s : State) (k : Nat) : s.focus .spi (k + 1) = s.swapSpi k := rfl

theorem State.swapUart_of_some {s : State} {k : Nat} {u : UartInstance} (h : s.moreUarts[k]? = some u) :
    s.swapUart k = { s.putUart u with moreUarts := s.moreUarts.set k s.firstUart } := by
  simp [State.swapUart, h]

theorem State.swapSpi_of_some {s : State} {k : Nat} {c : SpiInstance} (h : s.moreSpis[k]? = some c) :
    s.swapSpi k = { s.putSpi c with moreSpis := s.moreSpis.set k s.firstSpi } := by
  simp [State.swapSpi, h]

theorem State.swapUart_of_none {s : State} {k : Nat} (h : s.moreUarts[k]? = none) : s.swapUart k = s := by
  simp [State.swapUart, h]

theorem State.swapSpi_of_none {s : State} {k : Nat} (h : s.moreSpis[k]? = none) : s.swapSpi k = s := by
  simp [State.swapSpi, h]

section Focus
variable (s : State) (dev : Device) (inst : Nat)

@[simp] theorem State.focus_pending : (s.focus dev inst).pending = s.pending := by
  cases inst <;> cases dev <;> simp only [State.focus, State.swapUart, State.swapSpi] <;> split <;> rfl
@[simp] theorem State.focus_answer : (s.focus dev inst).answer = s.answer := by
  cases inst <;> cases dev <;> simp only [State.focus, State.swapUart, State.swapSpi] <;> split <;> rfl
@[simp] theorem State.focus_draws : (s.focus dev inst).draws = s.draws := by
  cases inst <;> cases dev <;> simp only [State.focus, State.swapUart, State.swapSpi] <;> split <;> rfl
@[simp] theorem State.focus_regionSize : (s.focus dev inst).params.regionSize = s.params.regionSize := by
  cases inst <;> cases dev <;> simp only [State.focus, State.swapUart, State.swapSpi] <;> split <;> rfl
/-- A UART brought into first place leaves the SPI controllers where they are. -/
@[simp] theorem State.focus_uart_spiAt (j : Nat) : (s.focus .uart inst).spiAt j = s.spiAt j := by
  cases inst <;> cases j <;> simp only [State.focus, State.swapUart] <;> split <;> rfl
@[simp] theorem State.focus_spi_uartAt (j : Nat) : (s.focus .spi inst).uartAt j = s.uartAt j := by
  cases inst <;> cases j <;> simp only [State.focus, State.swapSpi] <;> split <;> rfl

end Focus

/-- An instance brought into first place is the first one. -/
theorem State.focus_firstUart {s : State} {inst : Nat} {u : UartInstance} (h : s.uartAt inst = some u) :
    (s.focus .uart inst).firstUart = u := by
  cases inst with
  | zero => exact Option.some.inj h
  | succ k => rw [focus_uart_succ, swapUart_of_some h]; rfl

theorem State.focus_firstSpi {s : State} {inst : Nat} {c : SpiInstance} (h : s.spiAt inst = some c) :
    (s.focus .spi inst).firstSpi = c := by
  cases inst with
  | zero => exact Option.some.inj h
  | succ k => rw [focus_spi_succ, swapSpi_of_some h]; rfl

theorem set_of_getElem? {α : Type} {l : List α} {k : Nat} {a : α} (h : l[k]? = some a) : l.set k a = l := by
  obtain ⟨_, rfl⟩ := List.getElem?_eq_some_iff.1 h
  simp

/-- A further UART `u` was brought into first place and something changed there that leaves the parameters and the other
UARTs alone. Bringing it back stores it under its number and restores the first one. -/
theorem State.swapUart_back {s t : State} {k : Nat} {u : UartInstance} (h : s.moreUarts[k]? = some u)
    (hp : t.params = (s.swapUart k).params) (hm : t.moreUarts = (s.swapUart k).moreUarts) :
    t.swapUart k =
      { t with params := s.params, uart := s.uart, uartAttached := s.uartAttached, uartOut := s.uartOut, uartLog := s.uartLog,
               moreUarts := s.moreUarts.set k t.firstUart } := by
  have hk : k < s.moreUarts.length := (List.getElem?_eq_some_iff.1 h).1
  have hget : t.moreUarts[k]? = some s.firstUart := by
    rw [hm, swapUart_of_some h]
    simp [hk]
  rw [swapUart_of_some hget, hm, swapUart_of_some h]
  simp only [List.set_set, State.putUart, hp, swapUart_of_some h]
  rfl

theorem State.swapSpi_back {s t : State} {k : Nat} {c : SpiInstance} (h : s.moreSpis[k]? = some c)
    (hp : t.params = (s.swapSpi k).params) (hm : t.moreSpis = (s.swapSpi k).moreSpis) :
    t.swapSpi k =
      { t with params := s.params, spi := s.spi, spiAttached := s.spiAttached, spiXfers := s.spiXfers, spiLog := s.spiLog,
               spiResponses := s.spiResponses, moreSpis := s.moreSpis.set k t.firstSpi } := by
  have hk : k < s.moreSpis.length := (List.getElem?_eq_some_iff.1 h).1
  have hget : t.moreSpis[k]? = some s.firstSpi := by
    rw [hm, swapSpi_of_some h]
    simp [hk]
  rw [swapSpi_of_some hget, hm, swapSpi_of_some h]
  simp only [List.set_set, State.putSpi, hp, swapSpi_of_some h]
  rfl

/-- `focus` is its own inverse. -/
theorem State.focus_focus (s : State) (dev : Device) (inst : Nat) : (s.focus dev inst).focus dev inst = s := by
  cases inst with
  | zero => simp
  | succ k =>
    cases dev with
    | uart =>
      cases h : s.moreUarts[k]? with
      | none => simp [focus_uart_succ, swapUart_of_none h]
      | some u =>
        rw [focus_uart_succ, focus_uart_succ, swapUart_back h rfl rfl, swapUart_of_some h]
        exact congrArg (fun l => { s with moreUarts := l }) (set_of_getElem? h)
    | spi =>
      cases h : s.moreSpis[k]? with
      | none => simp [focus_spi_succ, swapSpi_of_none h]
      | some c =>
        rw [focus_spi_succ, focus_spi_succ, swapSpi_back h rfl rfl, swapSpi_of_some h]
        exact congrArg (fun l => { s with moreSpis := l }) (set_of_getElem? h)

theorem State.isAttached_uart {s : State} {inst : Nat} :
    s.isAttached .uart inst = true ↔ ∃ u, s.uartAt inst = some u ∧ u.attached = true := by
  simp [State.isAttached, Option.any_eq_true]

theorem State.isAttached_spi {s : State} {inst : Nat} :
    s.isAttached .spi inst = true ↔ ∃ c, s.spiAt inst = some c ∧ c.attached = true := by
  simp [State.isAttached, Option.any_eq_true]

theorem State.hasInstance_uart {s : State} {inst : Nat} :
    s.hasInstance .uart inst = true ↔ ∃ u, s.uartAt inst = some u := by
  cases inst <;> simp [State.hasInstance, State.uartAt, ← Option.isSome_iff_exists]

theorem State.hasInstance_spi {s : State} {inst : Nat} :
    s.hasInstance .spi inst = true ↔ ∃ c, s.spiAt inst = some c := by
  cases inst <;> simp [State.hasInstance, State.spiAt, ← Option.isSome_iff_exists]

/-! ### Running on an instance -/

@[simp] theorem execAt_zero (i : Instr) (s : State) : execAt 0 i s = exec i s := by
  simp only [execAt, State.focus_zero]
  cases exec i s <;> rfl

theorem execAt_next {inst : Nat} {i : Instr} {s t : State} (h : exec i (s.focus i.device inst) = .next t) :
    execAt inst i s = .next (t.focus i.device inst) := by
  simp [execAt, h]

/-- What runs on an instance and answers a next state answers one in first place. -/
theorem execAt_eq_next {inst : Nat} {i : Instr} {s t : State} (h : execAt inst i s = .next t) :
    ∃ m, exec i (s.focus i.device inst) = .next m ∧ t = m.focus i.device inst := by
  simp only [execAt] at h
  split at h
  · exact ⟨_, by assumption, (Host.Outcome.next.inj h).symm⟩
  · cases h
  · cases h

/-! ### Detach -/

/-- All that the detach of a UART does: its record is as at attach, and it is attached no more. -/
theorem State.detach_uart {s : State} {inst : Nat} {u : UartInstance} (h : s.uartAt inst = some u) :
    s.detach .uart inst =
      match inst with
      | 0 => { s with uart := Uart.atAttach, uartAttached := false }
      | k + 1 => { s with moreUarts := s.moreUarts.set k { u with dev := Uart.atAttach, attached := false } } := by
  cases inst with
  | zero => simp [State.detach, State.detachFirst]
  | succ k =>
    rw [State.detach, focus_uart_succ, focus_uart_succ,
      swapUart_back (t := (s.swapUart k).detachFirst .uart) h rfl rfl, swapUart_of_some h]
    rfl

/-- All that the detach of an SPI controller does. -/
theorem State.detach_spi {s : State} {inst : Nat} {c : SpiInstance} (h : s.spiAt inst = some c) :
    s.detach .spi inst =
      match inst with
      | 0 => { s with spi := Spi.atAttach s.params.ncs, spiAttached := false }
      | k + 1 =>
        { s with moreSpis := s.moreSpis.set k { c with dev := Spi.atAttach c.params.ncs, attached := false } } := by
  cases inst with
  | zero => simp [State.detach, State.detachFirst]
  | succ k =>
    rw [State.detach, focus_spi_succ, focus_spi_succ,
      swapSpi_back (t := (s.swapSpi k).detachFirst .spi) h rfl rfl, swapSpi_of_some h]
    rfl

/-! ### Windows -/

theorem windowsApart_iff {size : Nat} {bases : List Nat} :
    windowsApart size bases = true ↔ bases.Pairwise fun a b => a + size ≤ b ∨ b + size ≤ a := by
  induction bases with
  | nil => simp [windowsApart]
  | cons b bs ih => simp [windowsApart, windowApart, ih]

/-- An address outside the given windows is routed to none of them. -/
theorem routeIn_eq_none {size addr inst : Nat} {windows : List (Option Nat)} :
    routeIn size addr inst windows = none ↔ ∀ base, some base ∈ windows → ¬(base ≤ addr ∧ addr < base + size) := by
  induction windows generalizing inst with
  | nil => simp [routeIn]
  | cons w ws ih =>
    cases w with
    | none => simp [routeIn, ih]
    | some b =>
      simp only [routeIn, List.mem_cons, Option.some.injEq, forall_eq_or_imp]
      split
      · simp_all
      · rw [ih]; simp_all

/-- An address in the window of number `k` is routed there, if the windows do not meet. -/
theorem routeIn_eq_some {size off inst k base : Nat} {windows : List (Option Nat)}
    (hw : (windows.filterMap id).Pairwise fun a b => a + size ≤ b ∨ b + size ≤ a)
    (hk : windows[k]? = some (some base)) (ho : off < size) :
    routeIn size (base + off) inst windows = some (inst + k, BitVec.ofNat 24 off) := by
  induction windows generalizing inst k with
  | nil => simp at hk
  | cons w ws ih =>
    cases k with
    | zero =>
      obtain rfl : w = some base := by simpa using hk
      simp [routeIn, ho]
    | succ k =>
      have hk' : ws[k]? = some (some base) := by simpa using hk
      have e : inst + 1 + k = inst + (k + 1) := by omega
      cases w with
      | none => rw [routeIn, ih hw hk', e]
      | some b =>
        have hp := List.pairwise_cons.1 (show (b :: ws.filterMap id).Pairwise _ from hw)
        have := hp.1 base (List.mem_filterMap.2 ⟨_, List.mem_of_getElem? hk', rfl⟩)
        rw [routeIn, if_neg (by omega), ih hp.2 hk', e]

/-- An attached UART's window is the one of its number. -/
theorem uartWindows_of_uartAt {s : State} {inst : Nat} {u : UartInstance} (h : s.uartAt inst = some u)
    (ha : u.attached = true) : s.uartWindows[inst]? = some (some u.params.base) := by
  cases inst with
  | zero =>
    obtain rfl : s.firstUart = u := Option.some.inj h
    simp [State.uartWindows, windowOf, ha]
  | succ k =>
    have hk : s.moreUarts[k]? = some u := h
    simp [State.uartWindows, windowOf, hk, ha]

theorem spiWindows_of_spiAt {s : State} {inst : Nat} {c : SpiInstance} (h : s.spiAt inst = some c)
    (ha : c.attached = true) : s.spiWindows[inst]? = some (some c.params.base) := by
  cases inst with
  | zero =>
    obtain rfl : s.firstSpi = c := Option.some.inj h
    simp [State.spiWindows, windowOf, ha]
  | succ k =>
    have hk : s.moreSpis[k]? = some c := h
    simp [State.spiWindows, windowOf, hk, ha]

/-- The windows are those of the attached instances. -/
theorem some_mem_uartWindows {s : State} {base : Nat} :
    some base ∈ s.uartWindows ↔ ∃ inst u, s.uartAt inst = some u ∧ u.attached = true ∧ u.params.base = base := by
  constructor
  · intro h
    obtain ⟨u, hu, hw⟩ := List.mem_map.1 h
    have hw' : u.attached = true ∧ u.params.base = base := by simpa [windowOf] using hw
    rcases List.mem_cons.1 hu with rfl | hu
    · exact ⟨0, _, rfl, hw'⟩
    · obtain ⟨k, hk⟩ := List.mem_iff_getElem?.1 hu
      exact ⟨k + 1, u, hk, hw'⟩
  · rintro ⟨inst, u, h, ha, rfl⟩
    exact List.mem_of_getElem? (uartWindows_of_uartAt h ha)

theorem some_mem_spiWindows {s : State} {base : Nat} :
    some base ∈ s.spiWindows ↔ ∃ inst c, s.spiAt inst = some c ∧ c.attached = true ∧ c.params.base = base := by
  constructor
  · intro h
    obtain ⟨c, hc, hw⟩ := List.mem_map.1 h
    have hw' : c.attached = true ∧ c.params.base = base := by simpa [windowOf] using hw
    rcases List.mem_cons.1 hc with rfl | hc
    · exact ⟨0, _, rfl, hw'⟩
    · obtain ⟨k, hk⟩ := List.mem_iff_getElem?.1 hc
      exact ⟨k + 1, c, hk, hw'⟩
  · rintro ⟨inst, c, h, ha, rfl⟩
    exact List.mem_of_getElem? (spiWindows_of_spiAt h ha)

/-- Where an address is routed, a window of that number holds it. -/
theorem routeIn_some {size addr inst k : Nat} {off : Offset} {windows : List (Option Nat)}
    (h : routeIn size addr inst windows = some (k, off)) : ∃ j base, k = inst + j ∧ windows[j]? = some (some base) := by
  induction windows generalizing inst with
  | nil => cases h
  | cons w ws ih =>
    have next : routeIn size addr (inst + 1) ws = some (k, off) →
        ∃ j base, k = inst + j ∧ (w :: ws)[j]? = some (some base) := fun h => by
      obtain ⟨j, base, hk, hw⟩ := ih h
      exact ⟨j + 1, base, by omega, hw⟩
    cases w with
    | none => exact next h
    | some b =>
      rw [routeIn] at h
      split at h
      · obtain ⟨rfl, _⟩ := Prod.mk.inj (Option.some.inj h)
        exact ⟨0, b, rfl, rfl⟩
      · exact next h

theorem windowOf_eq_some {attached : Bool} {base b : Nat} (h : windowOf attached base = some b) : attached = true := by
  cases attached
  · cases h
  · rfl

theorem isAttached_of_uartWindows {s : State} {inst base : Nat} (h : s.uartWindows[inst]? = some (some base)) :
    s.isAttached .uart inst = true := by
  rw [State.uartWindows, List.getElem?_map] at h
  obtain ⟨u, hu, hw⟩ := Option.map_eq_some_iff.1 h
  exact State.isAttached_uart.2 ⟨u, by cases inst <;> exact hu, windowOf_eq_some hw⟩

theorem isAttached_of_spiWindows {s : State} {inst base : Nat} (h : s.spiWindows[inst]? = some (some base)) :
    s.isAttached .spi inst = true := by
  rw [State.spiWindows, List.getElem?_map] at h
  obtain ⟨c, hc, hw⟩ := Option.map_eq_some_iff.1 h
  exact State.isAttached_spi.2 ⟨c, by cases inst <;> exact hc, windowOf_eq_some hw⟩

/-- An address is routed only to an attached instance (R61, R340). -/
theorem route_attached {s : State} {addr inst : Nat} {dev : Device} {off : Offset}
    (h : route s addr = some (dev, inst, off)) : s.isAttached dev inst = true := by
  simp only [route] at h
  split at h
  · cases h
    obtain ⟨j, base, rfl, hw⟩ := routeIn_some (by assumption)
    rw [Nat.zero_add]
    exact isAttached_of_uartWindows hw
  · split at h
    · cases h
      obtain ⟨j, base, rfl, hw⟩ := routeIn_some (by assumption)
      rw [Nat.zero_add]
      exact isAttached_of_spiWindows hw
    · cases h

end Sys2Proof.Machine
end

