-- ==== Sys2Proof/Laws/PerInstr.lean ====
section
/-! SUPPORT. The family PayloadLength, per instruction: the payload an instruction carries has the length that its
descriptor announces (R89). -/

namespace Sys2Proof.Laws.PayloadLength

/-- The payload of the instruction is as long as R89 says for its descriptor. -/
def Statement (i : Instr) : Prop := i.payload.length = payloadBytes i.descriptor

theorem uartRdCtrl : Statement .uartRdCtrl :=
  (by decide : 0 = payloadBytes 0x04000000#32)
theorem uartRdData : Statement .uartRdData :=
  (by decide : 0 = payloadBytes 0x04000004#32)
theorem uartWrCtrl (v : Word) : Statement (.uartWrCtrl v) :=
  (by decide : 4 = payloadBytes 0x44000000#32)
theorem uartWrData (v : Word) : Statement (.uartWrData v) :=
  (by decide : 4 = payloadBytes 0x44000004#32)
theorem uartRdInvalid (off : Offset) (w : Width) : Statement (.uartRdInvalid off w) := by
  simp [Statement, Instr.payload, Instr.descriptor, payloadBytes]
theorem uartWrInvalid (off : Offset) (w : Width) (v : Word) : Statement (.uartWrInvalid off w v) := by
  simp [Statement, Instr.payload, Instr.descriptor, payloadBytes]
theorem uartEvReset : Statement .uartEvReset :=
  (by decide : 0 = payloadBytes 0x80000000#32)
theorem uartEvRxDeliver (b : Byte) : Statement (.uartEvRxDeliver b) :=
  (by decide : 1 = payloadBytes 0x80000001#32)
theorem uartQCanReceive : Statement .uartQCanReceive :=
  (by decide : 0 = payloadBytes 0x80000002#32)
theorem spiRdCtrl : Statement .spiRdCtrl :=
  (by decide : 0 = payloadBytes 0x04000000#32)
theorem spiRdData : Statement .spiRdData :=
  (by decide : 0 = payloadBytes 0x04000004#32)
theorem spiWrCtrl (v : Word) : Statement (.spiWrCtrl v) :=
  (by decide : 4 = payloadBytes 0x44000000#32)
theorem spiWrData (v : Word) : Statement (.spiWrData v) :=
  (by decide : 4 = payloadBytes 0x44000004#32)
theorem spiRdInvalid (off : Offset) (w : Width) : Statement (.spiRdInvalid off w) := by
  simp [Statement, Instr.payload, Instr.descriptor, payloadBytes]
theorem spiWrInvalid (off : Offset) (w : Width) (v : Word) : Statement (.spiWrInvalid off w v) := by
  simp [Statement, Instr.payload, Instr.descriptor, payloadBytes]
theorem spiEvReset : Statement .spiEvReset :=
  (by decide : 0 = payloadBytes 0x80000000#32)

end Sys2Proof.Laws.PayloadLength
end

