-- ==== Sys2Proof/Laws/Spec.lean ====
section
/-! SUPPORT. The machine's functions equal the spec's formulas of Safety.lean: status words, interrupt levels,
chip-select lines; and what the invariant says of a recomputation. -/

namespace Sys2Proof.Machine

theorem uartIrqLevel_spec (l : UartLayout) (u : Uart) : uartIrqLevel l u = Spec.uartLevel l u.cfg u.rx :=
  uartIrqLevel_eq l u

theorem spiIrqLevel_spec (l : SpiLayout) (s : Spi) : spiIrqLevel l s = Spec.spiLevel l s.cfg s.rx s.tx :=
  spiIrqLevel_eq l s

theorem uartStatus_spec (l : UartLayout) (u : Uart) : uartStatus l u = Spec.uartStatus l u.rx := by
  have h1 : u.rxNempty = decide (0 < u.rx.length) := by
    cases h : u.rx <;> simp [Uart.rxNempty, fifoIsEmpty, occupancy, h]
  have h2 : u.rxHalf = decide (16 ≤ u.rx.length) := rfl
  have h3 : u.rxFull = decide (u.rx.length = 32) := by
    simp [Uart.rxFull, fifoIsFull, occupancy, uartRxCap, ← beq_eq_decide]
  simp [uartStatus, Spec.uartStatus, flagBit, h1, h2, h3, Uart.txEmpty, Uart.txNhalf, Uart.txFull, Uart.rxOver,
    Uart.txBusy]

theorem spiStatus_spec (l : SpiLayout) (s : Spi) : spiStatus l s = Spec.spiStatus l s.rx s.tx := by
  have h1 : s.rxAvail = decide (0 < s.rx.length) := by
    cases h : s.rx <;> simp [Spi.rxAvail, fifoIsEmpty, occupancy, h]
  have h2 : s.txEmpty = decide (s.tx.length = 0) := by
    cases h : s.tx <;> simp [Spi.txEmpty, fifoIsEmpty, occupancy, h]
  have h3 : s.txNhalf = decide (s.tx.length < 4) := by
    change (!decide (4 ≤ s.tx.length)) = decide (s.tx.length < 4)
    by_cases h : s.tx.length < 4
    · simp [h]
    · simp [h, Nat.not_lt.1 h]
  have h4 : s.txFull = decide (s.tx.length = 8) := by
    simp [Spi.txFull, fifoIsFull, occupancy, spiTxCap, ← beq_eq_decide]
  have h5 : s.busy = decide (0 < s.tx.length) := by
    cases h : s.tx <;> simp [Spi.busy, fifoIsEmpty, occupancy, h]
  have h6 : spiFifoSize = 3#32 := by decide
  simp only [spiStatus, Spec.spiStatus, flagBit, h1, h2, h3, h4, h5, h6, decide_eq_true_eq]

theorem csIndex_spec (a b c : Bool) : csIndex a b c = Spec.csIndex a b c := by
  cases a <;> cases b <;> cases c <;> rfl

/-- The selected line, by the table of R181 and the two conditions of R182. -/
theorem csSelected_eq_some_iff {p : Params} {cfg : Word} {k : Nat} :
    csSelected p cfg = some k ↔
      cfg.getLsbD p.spi.csEn = true ∧ k < p.ncs ∧
        k = Spec.csIndex (cfg.getLsbD p.spi.csSel2) (cfg.getLsbD p.spi.csSel1) (cfg.getLsbD p.spi.csSel0) := by
  simp only [csSelected, csIndex_spec]
  split
  · rename_i h
    constructor
    · intro hk
      cases hk
      exact ⟨h.1, h.2, rfl⟩
    · rintro ⟨_, _, rfl⟩
      rfl
  · rename_i h
    constructor
    · intro hk
      cases hk
    · rintro ⟨h1, h2, rfl⟩
      exact absurd ⟨h1, h2⟩ h

theorem csLevels_spec (p : Params) (cfg : Word) : csLevels p cfg = Spec.csLines p cfg := by
  refine List.ext_getElem? fun k => ?_
  by_cases hk : k < p.ncs
  · rw [csLevels_getElem? p cfg hk]
    simp only [Spec.csLines, List.getElem?_map, List.getElem?_range hk, Option.map_some, Spec.csLine,
      Option.some.injEq]
    by_cases he : cfg.getLsbD p.spi.csEn = true <;> simp [csSelected_eq_some_iff, hk, he]
  · rw [List.getElem?_eq_none (by rw [csLevels_length]; omega), List.getElem?_eq_none]
    simp only [Spec.csLines, List.length_map, List.length_range]
    omega

/-! ### A recomputation, by the formulas -/

theorem State.recomputeUart_eq (s : State) :
    s.recomputeUart = { s with
      uart := { s.uart with irq := Spec.uartLevel s.params.uart s.uart.cfg s.uart.rx } } := by
  simp [State.recomputeUart, Uart.recompute, Uart.driveIrq, uartIrqLevel_spec]

theorem State.recomputeSpi_eq (s : State) :
    s.recomputeSpi = { s with
      spi := { s.spi with cs := Spec.csLines s.params s.spi.cfg
                          irq := Spec.spiLevel s.params.spi s.spi.cfg s.spi.rx s.spi.tx } } := by
  simp [State.recomputeSpi, Spi.recompute, Spi.driveIrq, Spi.updateCs, spiIrqLevel_spec, csLevels_spec]

/-- The byte of a DATA write as a number. -/
theorem dataByte_eq (v : Word) : dataByte v = BitVec.ofNat 8 (v.toNat % 256) := by
  apply BitVec.eq_of_toNat_eq
  simp [dataByte]

/-! ### Recomputation between two events changes nothing (R165) -/

theorem Uart.Ok.recompute_eq {p : Params} {u : Uart} (h : u.Ok p) : u.recompute p = u := by
  cases u
  simp only [Uart.recompute, Uart.driveIrq, Uart.mk.injEq, true_and]
  exact h.irq_level.symm

theorem Spi.Ok.recompute_eq {p : Params} {s : Spi} (h : s.Ok p) : s.recompute p = s := by
  cases s
  simp only [Spi.recompute, Spi.updateCs, Spi.driveIrq, Spi.mk.injEq, true_and]
  exact ⟨h.cs_levels.symm, h.irq_level.symm⟩

theorem State.recomputeUart_of_ok {s : State} (h : s.uart.Ok s.params) : s.recomputeUart = s := by
  simp [State.recomputeUart, h.recompute_eq]

theorem State.recomputeSpi_of_ok {s : State} (h : s.spi.Ok s.params) : s.recomputeSpi = s := by
  simp [State.recomputeSpi, h.recompute_eq]

end Sys2Proof.Machine
end

