-- ==== Sys2Proof/Laws/Step.lean ====
section
/-! SUPPORT. What a step can do, said once: it is idle, it refuses the request at the front, it runs the request's
instruction on the request's instance, on the state without the request, or it detaches an instance. -/

namespace Sys2Proof.Machine

theorem fetch_nil {s : State} (h : s.pending = []) : fetch s = .idle := by
  simp [fetch, h]

theorem fetch_cons {s : State} {r : Request} {rest : List Request} (h : s.pending = r :: rest) :
    fetch s = fetchRequest s r rest := by
  simp [fetch, h]

/-- An event of an attached instance, whose bytes decode, is the decoded instruction on that instance. -/
theorem fetchRequest_event {s : State} {dev : Device} {inst : Nat} {bytes tail : List Byte} {i : Instr}
    (rest : List Request) (hs : s.isAttached dev inst = true)
    (h : decode s.params.regionSize dev bytes = .ok (i, tail)) :
    fetchRequest s (.event dev inst bytes) rest = .run inst i { s with pending := rest } := by
  simp [fetchRequest, requestAsked, hs, h]

/-- The detach of an attached instance is that detach. -/
theorem fetchRequest_detach {s : State} {dev : Device} {inst : Nat} (rest : List Request)
    (hs : s.isAttached dev inst = true) :
    fetchRequest s (.detach dev inst) rest = .detach dev inst { s with pending := rest } := by
  simp [fetchRequest, requestAsked, hs]

/-- An event or a detach of an instance that is not attached is refused. -/
theorem fetchRequest_absent {s : State} {dev : Device} {inst : Nat} (bytes : List Byte) (rest : List Request)
    (hs : s.isAttached dev inst = false) :
    fetchRequest s (.event dev inst bytes) rest = .refused (s.absence dev inst) ∧
      fetchRequest s (.detach dev inst) rest = .refused (s.absence dev inst) := by
  simp [fetchRequest, requestAsked, hs]

theorem fetchRequest_error {s : State} {r : Request} {e : Refusal} (rest : List Request)
    (h : requestAsked s r = .error e) : fetchRequest s r rest = .refused e := by
  simp [fetchRequest, h]

/-- What is asked for is asked of an attached instance; and a detach is asked for only by the request for it. -/
theorem requestAsked_ok {s : State} {r : Request} {a : Asked} (h : requestAsked s r = .ok a) :
    (∃ dev inst bytes, a = .event dev inst bytes ∧ s.isAttached dev inst = true) ∨
    (∃ dev inst, a = .detach dev inst ∧ r = .detach dev inst ∧ s.isAttached dev inst = true) := by
  cases r <;> simp only [requestAsked] at h <;> split at h <;> cases h
  · exact .inl ⟨_, _, _, rfl, by assumption⟩
  · exact .inl ⟨_, _, _, rfl, route_attached (by assumption)⟩
  · exact .inl ⟨_, _, _, rfl, route_attached (by assumption)⟩
  · exact .inr ⟨_, _, rfl, rfl, by assumption⟩

/-- What a request can be fetched as: a refusal, an instruction on an attached instance, or the detach of one. -/
theorem fetchRequest_cases (s : State) (r : Request) (rest : List Request) :
    (∃ e, fetchRequest s r rest = .refused e) ∨
    (∃ inst i, s.isAttached i.device inst = true ∧ fetchRequest s r rest = .run inst i { s with pending := rest }) ∨
    (∃ dev inst, r = .detach dev inst ∧ s.isAttached dev inst = true ∧
      fetchRequest s r rest = .detach dev inst { s with pending := rest }) := by
  cases h : requestAsked s r with
  | error e => exact .inl ⟨e, fetchRequest_error rest h⟩
  | ok a =>
    rcases requestAsked_ok h with ⟨dev, inst, bytes, rfl, ha⟩ | ⟨dev, inst, rfl, hr, ha⟩
    · cases hd : decode s.params.regionSize dev bytes with
      | error e => exact .inl ⟨.undecoded e, by simp [fetchRequest, h, hd]⟩
      | ok x =>
        exact .inr (.inl ⟨inst, x.1, (decode_device (rest := x.2) hd) ▸ ha, by simp [fetchRequest, h, hd]⟩)
    · exact .inr (.inr ⟨dev, inst, hr, ha, by simp [fetchRequest, h]⟩)

/-- A step is idle, a refusal, an instruction on an attached instance, or the detach of an attached instance. -/
theorem step_cases (s : State) :
    (s.pending = [] ∧ step s = .next s) ∨
    (∃ r rest e, s.pending = r :: rest ∧ step s = .refused e) ∨
    (∃ r rest inst i, s.pending = r :: rest ∧ s.isAttached i.device inst = true ∧
      step s = execAt inst i { s with pending := rest }) ∨
    (∃ dev inst rest, s.pending = .detach dev inst :: rest ∧ s.isAttached dev inst = true ∧
      step s = .next (State.detach { s with pending := rest } dev inst)) := by
  cases h : s.pending with
  | nil => exact .inl ⟨rfl, by simp [step, fetch_nil h]⟩
  | cons r rest =>
    rcases fetchRequest_cases s r rest with ⟨e, hf⟩ | ⟨inst, i, ha, hf⟩ | ⟨dev, inst, rfl, ha, hf⟩
    · exact .inr (.inl ⟨r, rest, e, rfl, by simp [step, fetch_cons h, hf]⟩)
    · exact .inr (.inr (.inl ⟨r, rest, inst, i, rfl, ha, by simp [step, fetch_cons h, hf]⟩))
    · exact .inr (.inr (.inr ⟨dev, inst, rest, rfl, ha, by simp [step, fetch_cons h, hf]⟩))

/-- A step that answers a next state was idle, ran one instruction on an attached instance, or detached one. -/
theorem step_eq_next {s t : State} (h : step s = .next t) :
    (s.pending = [] ∧ t = s) ∨
    (∃ r rest inst i, s.pending = r :: rest ∧ s.isAttached i.device inst = true ∧
      execAt inst i { s with pending := rest } = .next t) ∨
    (∃ dev inst rest, s.pending = .detach dev inst :: rest ∧ s.isAttached dev inst = true ∧
      t = State.detach { s with pending := rest } dev inst) := by
  rcases step_cases s with ⟨hp, hs⟩ | ⟨r, rest, e, _, hs⟩ | ⟨r, rest, inst, i, hp, ha, hs⟩ |
    ⟨dev, inst, rest, hp, ha, hs⟩
  · exact .inl ⟨hp, by rw [hs] at h; exact (Host.Outcome.next.inj h).symm⟩
  · rw [hs] at h; cases h
  · exact .inr (.inl ⟨r, rest, inst, i, hp, ha, hs ▸ h⟩)
  · exact .inr (.inr ⟨dev, inst, rest, hp, ha, by rw [hs] at h; exact (Host.Outcome.next.inj h).symm⟩)

/-! ### Routing (R61, R74, R340) -/

theorem windows_pairwise {s : State} (h : s.configWf = true) :
    (s.uartWindows.filterMap id ++ s.spiWindows.filterMap id).Pairwise fun a b =>
      a + s.params.regionSize ≤ b ∨ b + s.params.regionSize ≤ a := by
  simp only [State.configWf, Bool.and_eq_true] at h
  rw [← List.filterMap_append]
  exact windowsApart_iff.1 h.2

theorem route_uart {s : State} {inst off : Nat} {u : UartInstance} (h : s.configWf = true)
    (hu : s.uartAt inst = some u) (ha : u.attached = true) (ho : off < s.params.regionSize) :
    route s (u.params.base + off) = some (.uart, inst, BitVec.ofNat 24 off) := by
  simp [route, routeIn_eq_some (List.pairwise_append.1 (windows_pairwise h)).1 (uartWindows_of_uartAt hu ha) ho]

theorem route_spi {s : State} {inst off : Nat} {c : SpiInstance} (h : s.configWf = true)
    (hc : s.spiAt inst = some c) (ha : c.attached = true) (ho : off < s.params.regionSize) :
    route s (c.params.base + off) = some (.spi, inst, BitVec.ofNat 24 off) := by
  obtain ⟨_, h2, h3⟩ := List.pairwise_append.1 (windows_pairwise h)
  have hw := spiWindows_of_spiAt hc ha
  have hn : routeIn s.params.regionSize (c.params.base + off) 0 s.uartWindows = none :=
    routeIn_eq_none.2 fun b hb hin => by
      have := h3 b (List.mem_filterMap.2 ⟨_, hb, rfl⟩) _ (List.mem_filterMap.2 ⟨_, List.mem_of_getElem? hw, rfl⟩)
      omega
  simp [route, hn, routeIn_eq_some h2 hw ho]

/-- An address in the window of no attached instance is routed nowhere. -/
theorem route_eq_none {s : State} {addr : Nat} :
    route s addr = none ↔
      ∀ base, some base ∈ s.uartWindows ∨ some base ∈ s.spiWindows →
        ¬(base ≤ addr ∧ addr < base + s.params.regionSize) := by
  have key : route s addr = none ↔ routeIn s.params.regionSize addr 0 s.uartWindows = none ∧
      routeIn s.params.regionSize addr 0 s.spiWindows = none := by
    unfold route
    split
    · simp_all
    · split <;> simp_all
  rw [key, routeIn_eq_none, routeIn_eq_none]
  exact ⟨fun h base hb => hb.elim (h.1 base) (h.2 base), fun h => ⟨fun b hb => h b (.inl hb), fun b hb => h b (.inr hb)⟩⟩

end Sys2Proof.Machine
end

