-- ==== Sys2Proof/Tests/Slice0.lean ====
section
/-! SUPPORT. The model's tests. Expected values come from spec/: the vectors V-… and the worked examples of
95_test_vectors.md, and the masks and words of the rules. The last part shows, for each statement with hypotheses, a
state and operands that meet them. -/

namespace Sys2Proof.Tests

open Sys2Proof Sys2Proof.Machine

/-! ### Helpers -/

/-- The reference block with a UART between two events. -/
def uartState (cfg : Word) (rx : List Byte) : State :=
  { State.reset with uart := (Uart.mk cfg rx false).recompute State.reset.params }

/-- The reference block with `n` chip-select lines, an SPI between two events, and scheduled responses. -/
def spiState (n : LineCount) (cfg : Word) (rx : List Byte) (responses : List Byte) : State :=
  let p := { Params.reference with ncs := n }
  { State.attach p with spi := (Spi.mk cfg rx [] [] false).recompute p, spiResponses := responses }

/-- `n` bytes 0, 1, 2, … -/
def bytesUpTo (n : Nat) : List Byte := (List.range n).map (BitVec.ofNat 8)

/-- What a view of the state is after an instruction that answers a next state. -/
def after {α : Type} (i : Instr) (s : State) (view : State → α) : Option α :=
  match exec i s with
  | .next t => some (view t)
  | _ => none

/-- What a CTRL read answers after another instruction. -/
def thenRead (i read : Instr) (s : State) : Option Answer :=
  match exec i s with
  | .next t => after read t State.answer
  | _ => none

/-- The reference block with a second UART, which holds one byte, and a second SPI controller of four lines, both between
two events, in windows of their own beside the first ones. -/
def dualState : State :=
  let p := Params.reference
  let u : UartParams := { p.uartParams with base := 0xFFF50008, irqId := 3 }
  let c : SpiParams := { p.spiParams with ncs := ⟨4, by decide⟩, base := 0xFFF80008 }
  { State.reset with
    moreUarts := [⟨u, true, (Uart.mk 0x00400000#32 [0x41#8] false).recompute (p.withUart u), [], []⟩]
    moreSpis := [⟨c, true, (Spi.mk 0x41#32 [] [] [] false).recompute (p.withSpi c), [], [], [0x99#8]⟩] }

/-- The block of `dualState` after the detach of the second UART. -/
def detachedState : State := dualState.detach .uart 1

/-- A request fetched in a state, with an empty queue behind it. -/
def fetched (s : State) (r : Request) : Fetched := fetchRequest s r []

def two : LineCount := ⟨2, by decide⟩
def four : LineCount := ⟨4, by decide⟩
def eight : LineCount := ⟨8, by decide⟩
def one : LineCount := ⟨1, by decide⟩

/-! ### Masks and parameters (R28 to R35) -/

theorem test_uart_masks :
    UartLayout.reference.wmask = 0x0240FFFF#32 ∧ UartLayout.reference.romask = 0xC03F0000#32 ∧
      UartLayout.reference.resmask = 0x3D800000#32 := by decide
theorem test_spi_masks :
    SpiLayout.reference.wmask = 0x00703FFF#32 ∧ SpiLayout.reference.romask = 0x878F0000#32 ∧
      SpiLayout.reference.resmask = 0x7800C000#32 := by decide
theorem test_reference_params_wf : Params.reference.wf = true := by decide
/-- A layout with two fields on one bit is refused (R28). -/
theorem test_overlapping_layout_refused : (UartLayout.wf { UartLayout.reference with simMode := 0 }) = false := by decide
/-- A field beyond bit 31 is refused (R28). -/
theorem test_field_outside_word_refused : (SpiLayout.wf { SpiLayout.reference with busy := 32 }) = false := by decide
theorem test_small_window_refused : Params.wf { Params.reference with regionSize := 7 } = false := by decide
theorem test_meeting_windows_refused : Params.wf { Params.reference with spiBase := 0xFFF50007 } = false := by decide

/-! ### WellFormed: an ill-formed term for each check, refused -/

theorem test_wf_uartRdCtrl_no_window : (Instr.uartRdCtrl).wf 0 = false := by decide
theorem test_wf_uartRdData_small_window : (Instr.uartRdData).wf 4 = false := by decide
theorem test_wf_uartWrCtrl_no_window : (Instr.uartWrCtrl 0#32).wf 0 = false := by decide
theorem test_wf_uartWrData_small_window : (Instr.uartWrData 0#32).wf 4 = false := by decide
theorem test_wf_spiRdCtrl_no_window : (Instr.spiRdCtrl).wf 0 = false := by decide
theorem test_wf_spiRdData_small_window : (Instr.spiRdData).wf 4 = false := by decide
theorem test_wf_spiWrCtrl_no_window : (Instr.spiWrCtrl 0#32).wf 0 = false := by decide
theorem test_wf_spiWrData_small_window : (Instr.spiWrData 0#32).wf 4 = false := by decide
/-- An offset outside the window. -/
theorem test_wf_invalid_outside_window :
    (Instr.uartRdInvalid 8#24 4#6).wf 8 = false ∧ (Instr.uartWrInvalid 8#24 1#6 0#32).wf 8 = false ∧
      (Instr.spiRdInvalid 8#24 4#6).wf 8 = false ∧ (Instr.spiWrInvalid 8#24 1#6 0#32).wf 8 = false := by decide
/-- An access that selects CTRL or DATA is not an invalid one. -/
theorem test_wf_invalid_selecting_a_register :
    (Instr.uartRdInvalid 0#24 4#6).wf 8 = false ∧ (Instr.uartWrInvalid 4#24 4#6 0#32).wf 8 = false ∧
      (Instr.spiRdInvalid 4#24 4#6).wf 8 = false ∧ (Instr.spiWrInvalid 0#24 4#6 0#32).wf 8 = false := by decide

/-! ### Decoding: a word of each constructor, written out from R80 and R86 -/

theorem test_decode_uartRdCtrl : decode 8 .uart [0x00#8, 0x00#8, 0x00#8, 0x04#8] = .ok (.uartRdCtrl, []) := by decide
theorem test_decode_uartRdData : decode 8 .uart [0x04#8, 0x00#8, 0x00#8, 0x04#8] = .ok (.uartRdData, []) := by decide
theorem test_decode_uartWrCtrl :
    decode 8 .uart [0x00#8, 0x00#8, 0x00#8, 0x44#8, 0x01#8, 0x00#8, 0x40#8, 0x00#8] =
      .ok (.uartWrCtrl 0x00400001#32, []) := by decide
theorem test_decode_uartWrData :
    decode 8 .uart [0x04#8, 0x00#8, 0x00#8, 0x44#8, 0x78#8, 0x56#8, 0x34#8, 0x12#8] =
      .ok (.uartWrData 0x12345678#32, []) := by decide
/-- V-E6 and V-E8. -/
theorem test_decode_uartRdInvalid :
    decode 8 .uart [0x04#8, 0x00#8, 0x00#8, 0x02#8] = .ok (.uartRdInvalid 4#24 2#6, []) ∧
      decode 8 .uart [0x02#8, 0x00#8, 0x00#8, 0x04#8] = .ok (.uartRdInvalid 2#24 4#6, []) := by decide
/-- V-E9. -/
theorem test_decode_uartWrInvalid :
    decode 8 .uart [0x04#8, 0x00#8, 0x00#8, 0x41#8, 0x41#8, 0x00#8, 0x00#8, 0x00#8] =
      .ok (.uartWrInvalid 4#24 1#6 0x41#32, []) := by decide
theorem test_decode_uartEvReset : decode 8 .uart [0x00#8, 0x00#8, 0x00#8, 0x80#8] = .ok (.uartEvReset, []) := by decide
theorem test_decode_uartEvRxDeliver :
    decode 8 .uart [0x01#8, 0x00#8, 0x00#8, 0x80#8, 0x41#8] = .ok (.uartEvRxDeliver 0x41#8, []) := by decide
theorem test_decode_uartQCanReceive :
    decode 8 .uart [0x02#8, 0x00#8, 0x00#8, 0x80#8] = .ok (.uartQCanReceive, []) := by decide
theorem test_decode_spiRdCtrl : decode 8 .spi [0x00#8, 0x00#8, 0x00#8, 0x04#8] = .ok (.spiRdCtrl, []) := by decide
theorem test_decode_spiRdData : decode 8 .spi [0x04#8, 0x00#8, 0x00#8, 0x04#8] = .ok (.spiRdData, []) := by decide
theorem test_decode_spiWrCtrl :
    decode 8 .spi [0x00#8, 0x00#8, 0x00#8, 0x44#8, 0x51#8, 0x00#8, 0x10#8, 0x00#8] =
      .ok (.spiWrCtrl 0x00100051#32, []) := by decide
theorem test_decode_spiWrData :
    decode 8 .spi [0x04#8, 0x00#8, 0x00#8, 0x44#8, 0x9F#8, 0x00#8, 0x00#8, 0x00#8] =
      .ok (.spiWrData 0x9F#32, []) := by decide
/-- V-E7. -/
theorem test_decode_spiRdInvalid :
    decode 8 .spi [0x00#8, 0x00#8, 0x00#8, 0x08#8] = .ok (.spiRdInvalid 0#24 8#6, []) := by decide
/-- V-E10. -/
theorem test_decode_spiWrInvalid :
    decode 8 .spi [0x00#8, 0x00#8, 0x00#8, 0x42#8, 0xFF#8, 0xFF#8, 0x00#8, 0x00#8] =
      .ok (.spiWrInvalid 0#24 2#6 0xFFFF#32, []) := by decide
theorem test_decode_spiEvReset : decode 8 .spi [0x00#8, 0x00#8, 0x00#8, 0x80#8] = .ok (.spiEvReset, []) := by decide
/-- V-E11: width 0. -/
theorem test_decode_width_zero : decode 8 .uart [0#8, 0#8, 0#8, 0#8] = .ok (.uartRdInvalid 0#24 0#6, []) := by decide

/-- V-E12 and V-E13. -/
theorem test_refuse_notThisDevice :
    decode 8 .uart [0x08#8, 0x00#8, 0x00#8, 0x04#8] = .error .notThisDevice ∧
      decode 16 .uart [0x08#8, 0x00#8, 0x00#8, 0x04#8] = .ok (.uartRdInvalid 8#24 4#6, []) := by decide
/-- V-E14. -/
theorem test_refuse_reservedKind :
    decode 8 .uart [0#8, 0#8, 0#8, 0xC4#8] = .error .reservedKind ∧
      decode 8 .spi [0#8, 0#8, 0#8, 0xC4#8] = .error .reservedKind := by decide
/-- V-E15. -/
theorem test_refuse_eventWidthNonzero :
    decode 8 .uart [0#8, 0#8, 0#8, 0x81#8] = .error .eventWidthNonzero ∧
      decode 8 .spi [0#8, 0#8, 0#8, 0x81#8] = .error .eventWidthNonzero := by decide
/-- V-E16. -/
theorem test_refuse_unknownEvent :
    decode 8 .uart [3#8, 0#8, 0#8, 0x80#8] = .error .unknownEvent ∧
      decode 8 .spi [3#8, 0#8, 0#8, 0x80#8] = .error .unknownEvent := by decide
/-- V-E17. -/
theorem test_refuse_eventNotOnDevice :
    decode 8 .spi [1#8, 0#8, 0#8, 0x80#8, 0x41#8] = .error .eventNotOnDevice ∧
      decode 8 .spi [2#8, 0#8, 0#8, 0x80#8] = .error .eventNotOnDevice := by decide
theorem test_refuse_truncated :
    decode 8 .uart [4#8, 0#8, 0#8, 0x44#8, 1#8, 2#8, 3#8] = .error .truncatedEvent ∧
      decode 8 .uart [0#8, 0#8, 0#8] = .error .truncatedEvent := by decide

/-- The bytes of a word stand as R63 says, and the table's word is the event's (log 7, log 8). -/
theorem test_table_word :
    decodeTableWord 32 0x04000004 = some .uartRdData ∧ decodeTableWordOn .spi 32 0x44000004 = some (.spiWrData 0#32) ∧
      decodeTableWord 64 0x1234567844000000 = some (.uartWrCtrl 0x12345678#32) := by decide
theorem test_fetch_runs_the_table_word :
    fetch (State.reset.withFetchWord 32 0x44000000) = .run 0 (.uartWrCtrl 0#32) State.reset := by decide
theorem test_fetch_on_spi :
    fetch (State.reset.withEvent .spi 32 0x04000000) = .run 0 .spiRdCtrl State.reset := by decide
theorem test_idle_step : fetch State.reset = .idle := by decide

/-! ### FIFO buffers (V-F1 to V-F8, X1) -/

theorem test_push : fifoPush 8 [] 0x41#8 = ([0x41#8], true) ∧
    fifoPush 8 (bytesUpTo 8) 0x99#8 = (bytesUpTo 8, false) := by decide
theorem test_pop : (fifoPop [0x41#8, 0x42#8]).toOption = some ([0x42#8], 0x41#8) ∧
    (fifoPop []).toOption = none := by decide
theorem test_fifo_predicates :
    fifoIsAtLeastHalfFull 8 (bytesUpTo 3) = false ∧ fifoIsAtLeastHalfFull 8 (bytesUpTo 4) = true ∧
      fifoIsAtLeastHalfFull 32 (bytesUpTo 15) = false ∧ fifoIsAtLeastHalfFull 32 (bytesUpTo 16) = true ∧
      fifoIsFull 32 (bytesUpTo 31) = false ∧ fifoIsFull 32 (bytesUpTo 32) = true ∧
      fifoIsEmpty [] = true ∧ fifoIsEmpty [0#8] = false := by decide
/-- X1. -/
theorem test_fifo_order :
    fifoRun 8 [some 1#8, some 2#8, none, some 3#8, none, none] [] = some ([], [1#8, 2#8, 3#8]) := by decide

/-! ### The UART's instructions -/

/-- V-P3, V-P4. -/
theorem test_uartRdCtrl_half :
    after .uartRdCtrl (uartState 0#32 (bytesUpTo 15)) State.answer = some (.value 0x00190000#32) ∧
      after .uartRdCtrl (uartState 0#32 (bytesUpTo 16)) State.answer = some (.value 0x001B0000#32) := by decide
/-- V-P5, V-P6. -/
theorem test_uartRdCtrl_full :
    after .uartRdCtrl (uartState 0#32 (bytesUpTo 31)) State.answer = some (.value 0x001B0000#32) ∧
      after .uartRdCtrl (uartState 0#32 (bytesUpTo 32)) State.answer = some (.value 0x001F0000#32) := by decide
/-- V-U2. -/
theorem test_uartWrCtrl :
    after (.uartWrCtrl 0xFFFFFFFF#32) State.reset State.uart = some ⟨0x0240FFFF#32, [], true⟩ ∧
      thenRead (.uartWrCtrl 0xFFFFFFFF#32) .uartRdCtrl State.reset = some (.value 0x0258FFFF#32) := by decide
/-- The toggle of 95_test_vectors.md section 2.4. -/
theorem test_uartWrCtrl_toggle :
    after (.uartWrCtrl 0x00400000#32) (uartState 0x02400000#32 [1#8]) (·.uart.irq) = some true ∧
      after (.uartWrCtrl 0#32) (uartState 0x02400000#32 [1#8]) (·.uart.irq) = some false := by decide
/-- V-U4 and the example of R203. -/
theorem test_uartRdData :
    after .uartRdData (uartState 0#32 [0x41#8, 0x42#8]) (fun t => (t.answer, t.uart.rx)) =
        some (.value 0x41#32, [0x42#8]) ∧
      after .uartRdData (uartState 0x00400000#32 [0x41#8]) (fun t => (t.answer, t.uart)) =
        some (.value 0x41#32, ⟨0x00400000#32, [], false⟩) := by decide
/-- V-U5. -/
theorem test_uartRdData_empty :
    after .uartRdData State.reset (fun t => (t.answer, t.uart, t.uartLog)) =
      some (.value 0#32, State.reset.uart, [.guestProtocolError .dataReadEmpty]) := by decide
/-- V-U6. -/
theorem test_uartWrData :
    after (.uartWrData 0x12345678#32) (uartState 0x02400000#32 [1#8]) (fun t => (t.uartOut, t.uart)) =
      some ([0x78#8], (uartState 0x02400000#32 [1#8]).uart) := by decide
/-- V-U8. -/
theorem test_uartEvRxDeliver :
    after (.uartEvRxDeliver 0x41#8) (uartState 0x00400000#32 []) State.uart =
      some ⟨0x00400000#32, [0x41#8], true⟩ := by decide
/-- V-U9. -/
theorem test_uartEvRxDeliver_full :
    after (.uartEvRxDeliver 0x20#8) (uartState 0#32 (bytesUpTo 32)) (fun t => (t.uart.rx, t.uartLog)) =
      some (bytesUpTo 32, [.transportOverflow 0x20#8]) := by decide
/-- V-U10, V-U11. -/
theorem test_uartQCanReceive :
    after .uartQCanReceive (uartState 0#32 (bytesUpTo 31)) State.answer = some (.canReceive true) ∧
      after .uartQCanReceive (uartState 0#32 (bytesUpTo 32)) State.answer = some (.canReceive false) := by decide
/-- V-E5. -/
theorem test_uartRdInvalid :
    after (.uartRdInvalid 0#24 1#6) (uartState 0x0240FFFF#32 [1#8]) (fun t => (t.answer, t.uart, t.uartLog)) =
      some (.value 0#32, (uartState 0x0240FFFF#32 [1#8]).uart, [.guestProtocolError (.badRead 0#24 1#6)]) := by decide
/-- V-E9. -/
theorem test_uartWrInvalid :
    after (.uartWrInvalid 4#24 1#6 0x41#32) State.reset (fun t => (t.uart, t.uartOut, t.uartLog)) =
      some (State.reset.uart, [], [.guestProtocolError (.badWrite 4#24 1#6 0x41#32)]) := by decide
/-- V-R1, V-R4. -/
theorem test_uartEvReset :
    after .uartEvReset { uartState 0x0240FFFF#32 [1#8, 2#8] with uartLog := [.transportOverflow 3#8] }
        (fun t => (t.uart, t.uartLog)) = some (⟨0#32, [], false⟩, [.transportOverflow 3#8]) ∧
      thenRead .uartEvReset .uartRdCtrl (uartState 0x0240FFFF#32 [1#8, 2#8]) = some (.value 0x00180000#32) := by decide
/-- V-I1, V-I4, V-I5. -/
theorem test_uart_levels :
    uartIrqLevel .reference ⟨0#32, [1#8], false⟩ = false ∧ uartIrqLevel .reference ⟨0x02000000#32, [], false⟩ = true ∧
      uartIrqLevel .reference ⟨0xFFFF#32, bytesUpTo 32, false⟩ = false := by decide

/-! ### The SPI's instructions -/

/-- V-P7, V-P9. -/
theorem test_spiRdCtrl :
    after .spiRdCtrl (spiState one 0#32 [] []) State.answer = some (.value 0x01860000#32) ∧
      after .spiRdCtrl (spiState one 0#32 (bytesUpTo 8) []) State.answer = some (.value 0x01870000#32) := by decide
/-- 95_test_vectors.md section 2.3: the status function for a TX occupancy inside an event. -/
theorem test_spiStatus_inside :
    spiStatus .reference ⟨0#32, [], bytesUpTo 1, [], false⟩ = 0x81840000#32 ∧
      spiStatus .reference ⟨0#32, [], bytesUpTo 4, [], false⟩ = 0x81800000#32 ∧
      spiStatus .reference ⟨0#32, [], bytesUpTo 8, [], false⟩ = 0x81880000#32 := by decide
/-- The examples of R241. -/
theorem test_spiWrCtrl :
    after (.spiWrCtrl 0x51#32) (spiState four 0#32 [] []) (fun t => (t.spi.cfg, t.spi.cs)) =
        some (0x51#32, [true, false, true, true]) ∧
      after (.spiWrCtrl 0xFFFFFFFF#32) (spiState four 0#32 [] []) (fun t => (t.spi.cfg, t.spi.cs, t.spi.irq)) =
        some (0x00703FFF#32, [true, true, false, true], true) := by decide
/-- V-S2, V-C9. -/
theorem test_spiWrCtrl_no_line :
    after (.spiWrCtrl 0xFFFFFFFF#32) (spiState one 0#32 [] []) (fun t => (t.spi.cs, t.spi.irq)) = some ([true], true) ∧
      after (.spiWrCtrl 0x50#32) (spiState one 0#32 [] []) (·.spi.cs) = some [true] := by decide
/-- V-C1 to V-C8. -/
theorem test_csIndex_table :
    [0x40#32, 0x48#32, 0x50#32, 0x58#32, 0x60#32, 0x68#32, 0x70#32, 0x78#32].map
        (csSelected { Params.reference with ncs := eight }) =
      [some 0, some 0, some 1, some 1, some 2, some 2, some 2, some 2] := by decide
/-- V-C10, V-C11, V-C12. -/
theorem test_csLevels :
    csLevels Params.reference 0x40#32 = [false] ∧ csLevels { Params.reference with ncs := two } 0x70#32 = [true, true] ∧
      csLevels { Params.reference with ncs := four } 0x30#32 = [true, true, true, true] := by decide
/-- V-S4. -/
theorem test_spiRdData :
    after .spiRdData (spiState one 0#32 [0xA5#8, 0x5A#8] []) (fun t => (t.answer, t.spi.rx)) =
      some (.value 0xA5#32, [0x5A#8]) := by decide
/-- V-S5. -/
theorem test_spiRdData_empty :
    after .spiRdData (spiState one 0#32 [] []) (fun t => (t.answer, t.spi.rx, t.spiLog)) =
      some (.value 0#32, [], [.guestProtocolError .dataReadEmpty]) := by decide
/-- V-S6 and the example of R243. -/
theorem test_spiWrData :
    after (.spiWrData 0x1FF#32) (spiState two 0#32 [] [0x3C#8]) (fun t => (t.spiXfers, t.spi.rx, t.spi.tx)) =
        some ([⟨0xFF#8, [true, true], 0x3C#8⟩], [0x3C#8], []) ∧
      after (.spiWrData 0x10#32) (spiState four 0x51#32 [] [0x77#8]) (fun t => (t.spiXfers, t.spi.rx, t.spi.cs)) =
        some ([⟨0x10#8, [true, false, true, true], 0x77#8⟩], [0x77#8], [true, false, true, true]) := by decide
/-- V-S7. -/
theorem test_spiWrData_rx_full :
    after (.spiWrData 0x09#32) (spiState one 0x00100041#32 (bytesUpTo 8) [0x99#8])
        (fun t => (t.spiXfers, t.spi.rx, t.spiLog, t.spi.irq)) =
      some ([⟨0x09#8, [false], 0x99#8⟩], bytesUpTo 8, [.spiRxDrop 0x99#8], true) := by decide
theorem test_spiRdInvalid :
    after (.spiRdInvalid 0#24 8#6) (spiState one 0x41#32 [1#8] []) (fun t => (t.answer, t.spi, t.spiLog)) =
      some (.value 0#32, (spiState one 0x41#32 [1#8] []).spi, [.guestProtocolError (.badRead 0#24 8#6)]) := by decide
/-- V-E10. -/
theorem test_spiWrInvalid :
    after (.spiWrInvalid 0#24 2#6 0xFFFF#32) (spiState four 0x51#32 [] []) (fun t => (t.spi, t.spiLog)) =
      some ((spiState four 0x51#32 [] []).spi, [.guestProtocolError (.badWrite 0#24 2#6 0xFFFF#32)]) := by decide
/-- V-R2, V-C14. -/
theorem test_spiEvReset :
    after .spiEvReset (spiState four 0x00700051#32 [0x10#8] []) State.spi =
        some ⟨0#32, [], [], [true, true, true, true], false⟩ ∧
      thenRead .spiEvReset .spiRdCtrl (spiState four 0x00700051#32 [0x10#8] []) = some (.value 0x01860000#32) := by decide
/-- V-I6 to V-I10. -/
theorem test_spi_levels :
    spiIrqLevel .reference ⟨0x100000#32, [], [], [], false⟩ = false ∧
      spiIrqLevel .reference ⟨0x100000#32, [1#8], [], [], false⟩ = true ∧
      spiIrqLevel .reference ⟨0x200000#32, [], [], [], false⟩ = true ∧
      spiIrqLevel .reference ⟨0x400000#32, [], [], [], false⟩ = true ∧
      spiIrqLevel .reference ⟨0x3FFF#32, bytesUpTo 8, [], [], false⟩ = false := by decide

/-! ### Several instances (R74) -/

/-- A delivery to the second UART is held there and leaves the first; a third does not exist. -/
theorem test_second_uart :
    (match step { dualState with pending := [.event .uart 1 [1#8, 0#8, 0#8, 0x80#8, 0x42#8]] } with
      | .next t => t.moreUarts.map (·.dev.rx) == [[0x41#8, 0x42#8]] && t.uart.rx == [] | _ => false) = true ∧
    (match step { dualState with pending := [.event .uart 2 [1#8, 0#8, 0#8, 0x80#8, 0x42#8]] } with
      | .refused r => r == .noSuchInstance | _ => false) = true := by decide
/-- A DATA write to the second SPI controller exchanges with its own line low and its own downstream device. -/
theorem test_second_spi :
    (match step { dualState with pending := [.busWrite 0xFFF8000C 4#6 0x10#32] } with
      | .next t => t.moreSpis.map (·.xfers) == [[⟨0x10#8, [false, true, true, true], 0x99#8⟩]] && t.spiXfers == [] &&
          t.spi == State.reset.spi && t.spiWindows == dualState.spiWindows
      | _ => false) = true := by decide
/-- A detached UART holds nothing, drives no interrupt input and takes no event; its window is free for another one. -/
theorem test_detach :
    detachedState.moreUarts.map (fun u => (u.attached, u.dev)) = [(false, ⟨0#32, [], false⟩)] ∧
      (dualState.irqInputs.map Prod.fst, detachedState.irqInputs.map Prod.fst) = ([2, 3, 6, 6], [2, 6, 6]) ∧
      fetched detachedState (.event .uart 1 [0#8, 0#8, 0#8, 0x80#8]) = .refused .detached ∧
      (detachedState.attachUart { Params.reference.uartParams with base := 0xFFF50008 }).configWf = true := by decide
theorem test_meeting_instances_refused :
    (State.reset.attachUart { Params.reference.uartParams with base := 0xFFF80004 }).configWf = false := by decide

/-! ### The text form (R90, R91; the lines of P1, P2 and P3) -/

theorem test_readLine_general :
    readLine .reference "rd 0x0, 1                ; 0x01000000" = some (.lines [.rd 0#24 1#6]) ∧
      readLine .reference "wr 0x4, 1, 0x41" = some (.lines [.wr 4#24 1#6 0x41#32]) ∧
      readLine .reference ".device spi N=2" = some (.device .spi (some 2)) ∧
      readLine .reference "rd 0x0, 0x4" = none := by decide
theorem test_readLine_pseudo :
    readLine .reference "spi.deselect 0x00100051  ; = wr.ctrl" = some (.lines [.wr 0#24 4#6 0x00100011#32]) ∧
      readLine .reference "spi.select 0x00100001, 1" = some (.lines [.wr 0#24 4#6 0x00100051#32]) ∧
      readLine .reference "rd.data -> 0x41" = some (.lines [.rd 4#24 4#6]) := by decide
theorem test_assemble :
    assemble .reference .spi [".device uart", "", "ev.deliver 0x68", "q.canrx"] =
      some [.event .uart 0 [1#8, 0#8, 0#8, 0x80#8, 0x68#8], .event .uart 0 [2#8, 0#8, 0#8, 0x80#8]] := by decide

/-! ### Witnesses: a state and operands that meet a statement's hypotheses -/

theorem uartState_ok {cfg : Word} {rx : List Byte} (h : cfg &&& ~~~UartLayout.reference.wmask = 0#32)
    (hr : rx.length ≤ uartRxCap) : (uartState cfg rx).uart.Ok State.reset.params :=
  ⟨h, hr, rfl⟩

theorem spiState_ok {n : LineCount} {cfg : Word} {rx responses : List Byte}
    (h : cfg &&& ~~~SpiLayout.reference.wmask = 0#32) (hr : rx.length ≤ spiRxCap) :
    (spiState n cfg rx responses).spi.Ok (spiState n cfg rx responses).params :=
  ⟨h, hr, rfl, rfl, rfl⟩

theorem witness_DecodeOfEncodeGivesTheInstruction :
    (Instr.uartRdInvalid 7#24 4#6).wf 8 = true ∧ (Instr.spiWrInvalid 4#24 63#6 5#32).wf 8 = true ∧
      (Instr.uartRdData).wf 5 = true ∧ (Instr.spiEvReset).wf 0 = true := by decide
theorem witness_DecodedBytesAreAnEncoding :
    decode 8 .spi [4#8, 0#8, 0#8, 0x44#8, 1#8, 2#8, 3#8, 4#8, 9#8] = .ok (.spiWrData 0x04030201#32, [9#8]) := by decide
theorem witness_DecoderSelectsTheFirstMatchingRow :
    ([1#8, 2#8, 3#8, 4#8] : List Byte).length = 4 ∧
      decode 8 .uart (bytesOfWord 0x04000001#32 ++ [1#8, 2#8, 3#8, 4#8]) =
        .ok (.uartRdInvalid 1#24 4#6, [1#8, 2#8, 3#8, 4#8]) ∧
      firstRow 0x80000003#32 = none ∧ firstRow 0x44000004#32 = some .wrData ∧
      (0x44000004#32).toNat / 2 ^ 30 < 2 ∧ (0x44000004#32).toNat % 2 ^ 24 < 5 := by decide
theorem witness_DecoderRefusesExactlyTheTableOfR88 :
    decode 8 .uart (bytesOfWord 0xC0000000#32 ++ [0#8, 0#8, 0#8, 0#8]) = .error .reservedKind ∧
      decode 8 .uart (bytesOfWord 0x81000000#32 ++ [0#8, 0#8, 0#8, 0#8]) = .error .eventWidthNonzero ∧
      decode 8 .uart (bytesOfWord 0x80000003#32 ++ [0#8, 0#8, 0#8, 0#8]) = .error .unknownEvent ∧
      decode 8 .spi (bytesOfWord 0x80000002#32 ++ [0#8, 0#8, 0#8, 0#8]) = .error .eventNotOnDevice ∧
      decode 8 .spi (bytesOfWord 0x44000008#32 ++ [0#8, 0#8, 0#8, 0#8]) = .error .notThisDevice := by decide
/-- On the first instance and on the last one; on the number after it; and on a detached one. -/
theorem witness_StepRunsTheDecodedEvent :
    (State.reset.withFetchWord 32 0x04000004).pending = .event .uart 0 (tableBytes 32 0x04000004) :: [] ∧
      ((State.reset.uartAt 0).map (·.attached) = some true ∧ (dualState.spiAt 1).map (·.attached) = some true ∧
        (dualState.uartAt 2).map (·.attached) = none ∧ (detachedState.uartAt 1).map (·.attached) = some false) ∧
      decode State.reset.params.regionSize .uart (tableBytes 32 0x04000004) =
        .ok (.uartRdData, [0#8, 0#8, 0#8, 0#8]) := by decide
/-- The four clauses have their own premises, met by the four queues; both instances of each device, with offsets 0, 4 and
the last of the window. -/
theorem witness_BusAccessReachesItsRegister :
    (∀ r, let s := { dualState with pending := [r] }
      s.pending = r :: [] ∧ s.configWf = true ∧ 0 < s.params.regionSize ∧ 4 < s.params.regionSize ∧
        7 < s.params.regionSize ∧
        (s.uartAt 0).map (fun u => (u.attached, u.params.base)) = some (true, 0xFFF50000) ∧
        (s.uartAt 1).map (fun u => (u.attached, u.params.base)) = some (true, 0xFFF50008) ∧
        (s.spiAt 0).map (fun c => (c.attached, c.params.base)) = some (true, 0xFFF80000) ∧
        (s.spiAt 1).map (fun c => (c.attached, c.params.base)) = some (true, 0xFFF80008)) ∧
      fetched dualState (.busRead (0xFFF50000 + 0) 4#6) = .run 0 .uartRdCtrl dualState ∧
      fetched dualState (.busWrite (0xFFF50000 + 7) 4#6 5#32) = .run 0 (.uartWrInvalid 7#24 4#6 5#32) dualState ∧
      fetched dualState (.busRead (0xFFF50008 + 4) 4#6) = .run 1 .uartRdData dualState ∧
      fetched dualState (.busRead (0xFFF80000 + 4) 4#6) = .run 0 .spiRdData dualState ∧
      fetched dualState (.busWrite (0xFFF80008 + 7) 2#6 5#32) = .run 1 (.spiWrInvalid 7#24 2#6 5#32) dualState :=
  ⟨fun _ => ⟨rfl, (by decide : dualState.configWf = true), (by decide : 0 < 8), (by decide : 4 < 8),
    (by decide : 7 < 8), rfl, rfl, rfl, rfl⟩, rfl, rfl, rfl, rfl, rfl⟩
/-- The first and the last address of a window, and addresses beside the windows, with two instances of each device; and
the window of a detached instance. -/
theorem witness_StepRefusesAtomicsFetchesAndOutsideAccesses :
    (∀ x ∈ [(0xFFF50000, 0xFFF50000), (0xFFF5000F, 0xFFF50008), (0xFFF80007, 0xFFF80000), (0xFFF80008, 0xFFF80008)],
      some x.2 ∈ dualState.uartWindows ++ dualState.spiWindows ∧ x.2 ≤ x.1 ∧
        x.1 < x.2 + dualState.params.regionSize) ∧
    (∀ addr ∈ [0xFFF4FFFF, 0xFFF50010, 0xFFF7FFFF, 0xFFF80010], route dualState addr = none) ∧
    (route detachedState 0xFFF50007).isSome = true ∧ route detachedState 0xFFF50008 = none ∧
    fetched dualState (.busAtomic 0xFFF50000) = .refused .atomicAccess ∧
      fetched dualState (.busFetch 0xFFF8000F) = .refused .instructionFetch ∧
      fetched dualState (.busRead 0xFFF50010 4#6) = .refused .outsideWindows ∧
      fetched detachedState (.busWrite 0xFFF50008 4#6 0#32) = .refused .outsideWindows :=
  ⟨by decide, by decide, by decide, by decide, rfl, rfl, rfl, rfl⟩
theorem witness_UartRdCtrlAnswersCfgOrStatus : (uartState 0x0240FFFF#32 (bytesUpTo 32)).uart.Ok State.reset.params :=
  uartState_ok (by decide) (by decide)
theorem witness_UartRdDataPopsTheOldestByte :
    (uartState 0#32 (bytesUpTo 32)).uart.rx = 0#8 :: (bytesUpTo 32).tail ∧ State.reset.uart.rx = [] ∧
      State.reset.uart.Ok State.reset.params :=
  ⟨rfl, rfl, by decide, by decide, rfl⟩
theorem witness_UartWrDataSendsTheLowByte : (uartState 0x02400000#32 []).uart.Ok State.reset.params :=
  uartState_ok (by decide) (by decide)
theorem witness_UartDeliveryIsPushedOrDropped :
    (uartState 0#32 (bytesUpTo 31)).uart.rx.length < 32 ∧ 32 ≤ (uartState 0#32 (bytesUpTo 32)).uart.rx.length := by
  decide
theorem witness_CanReceiveTellsWhetherADeliveryIsKept :
    (uartState 0#32 (bytesUpTo 31)).uart.Ok State.reset.params ∧
      (uartState 0#32 (bytesUpTo 32)).uart.Ok State.reset.params :=
  ⟨uartState_ok (by decide) (by decide), uartState_ok (by decide) (by decide)⟩
/-- The occupancies 0, 1, 15, 16, 31 and 32, at the two ends of each row of R147's table. -/
theorem witness_UartStatusByOccupancyUnderUartRef :
    ∀ n ∈ [0, 1, 15, 16, 31, 32], (uartState 0#32 (bytesUpTo n)).params.uart = UartLayout.reference ∧
      (uartState 0#32 (bytesUpTo n)).uart.rx.length = n ∧ n ≤ 32 ∧
      ∃ t, exec .uartRdCtrl (uartState 0#32 (bytesUpTo n)) = .next t := by
  intro n hn
  refine ⟨rfl, by simp [uartState, bytesUpTo], ?_, _, rfl⟩
  revert n
  decide
theorem witness_UartCtrlReadShowsEachField :
    State.reset.params.uart.wf = true ∧ (uartState 0x0240FFFF#32 (bytesUpTo 16)).uart.Ok State.reset.params ∧
      ∃ t, exec .uartRdCtrl (uartState 0x0240FFFF#32 (bytesUpTo 16)) = .next t :=
  ⟨by decide, uartState_ok (by decide) (by decide), _, rfl⟩
theorem witness_UartDeliveryBurstKeepsTheFirst32 : (uartState 0#32 (bytesUpTo 32)).uart.rx.length ≤ 32 := by decide
/-- With the read byte first, last and between others, at 32 bytes in all. -/
theorem witness_UartBytesComeOutInDeliveryOrder :
    State.reset.uart.rx = [] ∧ ([] ++ 1#8 :: bytesUpTo 31).length ≤ 32 ∧ (bytesUpTo 31 ++ 1#8 :: []).length ≤ 32 ∧
      (bytesUpTo 16 ++ 1#8 :: bytesUpTo 15).length ≤ 32 := by decide
theorem witness_SpiRdCtrlAnswersCfgOrStatus :
    (spiState four 0x00703FFF#32 (bytesUpTo 8) []).spi.Ok (spiState four 0x00703FFF#32 (bytesUpTo 8) []).params ∧
      (spiState four 0x00703FFF#32 (bytesUpTo 8) []).params.spi.wf = true :=
  ⟨spiState_ok (by decide) (by decide), by decide⟩
theorem witness_SpiRdDataPopsTheOldestByte :
    (spiState one 0#32 (bytesUpTo 8) []).spi.rx = 0#8 :: (bytesUpTo 8).tail ∧ State.reset.spi.rx = [] ∧
      State.reset.spi.Ok State.reset.params :=
  ⟨rfl, rfl, by decide, by decide, rfl, rfl, rfl⟩
/-- With a scheduled response and without one, at the two sides of the capacity. -/
theorem witness_SpiWrDataExchangesOneByte :
    (spiState four 0x51#32 (bytesUpTo 7) [9#8]).spi.Ok (spiState four 0x51#32 (bytesUpTo 7) [9#8]).params ∧
      (spiState four 0x51#32 (bytesUpTo 7) [9#8]).spiResponses = 9#8 :: [] ∧
      (spiState one 0#32 (bytesUpTo 8) []).spi.Ok (spiState one 0#32 (bytesUpTo 8) []).params :=
  ⟨spiState_ok (by decide) (by decide), rfl, spiState_ok (by decide) (by decide)⟩
theorem witness_SpiWrDataDrainsTxInOrder : (spiState one 0#32 (bytesUpTo 8) []).spi.rx.length ≤ 8 := by decide
theorem witness_SpiStatusUnderSpiRef :
    (spiState one 0#32 [1#8] []).params.spi = SpiLayout.reference ∧
      (spiState one 0#32 [1#8] []).spi.Ok (spiState one 0#32 [1#8] []).params ∧
      ∃ t, exec .spiRdCtrl (spiState one 0#32 [1#8] []) = .next t :=
  ⟨rfl, spiState_ok (by decide) (by decide), _, rfl⟩
/-- Also with bytes in TX, in a state no run reaches. -/
theorem witness_SpiCtrlReadShowsEachField :
    let s := { State.reset with spi := ⟨0x00703FFF#32, [], bytesUpTo 8, [true], false⟩ }
    s.params.spi.wf = true ∧ s.spi.cfg &&& ~~~s.params.spi.wmask = 0#32 ∧ ∃ t, exec .spiRdCtrl s = .next t :=
  ⟨by decide, by decide, _, rfl⟩
theorem witness_SpiBurstKeepsTheFirst8Responses :
    (spiState four 0x51#32 [1#8] [2#8]).spi.Ok (spiState four 0x51#32 [1#8] [2#8]).params :=
  spiState_ok (by decide) (by decide)
/-- With RX empty, and with RX full. -/
theorem witness_SpiXferReturnsTheOldestResponse :
    ((spiState one 0#32 [] []).spi.Ok (spiState one 0#32 [] []).params ∧ (spiState one 0#32 [] []).spi.rx = []) ∧
      (spiState one 0#32 (bytesUpTo 8) []).spi.Ok (spiState one 0#32 (bytesUpTo 8) []).params ∧
      (spiState one 0#32 (bytesUpTo 8) []).spi.rx = 0#8 :: (bytesUpTo 8).tail :=
  ⟨⟨spiState_ok (by decide) (by decide), rfl⟩, spiState_ok (by decide) (by decide), rfl⟩
/-- At the last offset of the window, and at CTRL's and DATA's offsets with a width beside 4. -/
theorem witness_InvalidReadsAnswerZeroAndChangeNothing :
    ((7#24 : Offset).toNat < 8 ∧ ¬((4#6 : Width).toNat = 4 ∧ ((7#24 : Offset).toNat = 0 ∨ (7#24 : Offset).toNat = 4))) ∧
      ((0#24 : Offset).toNat < 8 ∧ ¬((3#6 : Width).toNat = 4 ∧ ((0#24 : Offset).toNat = 0 ∨ (0#24 : Offset).toNat = 4))) ∧
      ((4#24 : Offset).toNat < 8 ∧
        ¬((5#6 : Width).toNat = 4 ∧ ((4#24 : Offset).toNat = 0 ∨ (4#24 : Offset).toNat = 4))) := by decide
theorem witness_InvalidWritesAreIgnored :
    ((7#24 : Offset).toNat < 8 ∧ ¬((4#6 : Width).toNat = 4 ∧ ((7#24 : Offset).toNat = 0 ∨ (7#24 : Offset).toNat = 4))) ∧
      State.reset.params.wf = true := by decide
theorem witness_Inv : (uartState 0x0240FFFF#32 (bytesUpTo 32)).Inv :=
  ⟨by decide, uartState_ok (by decide) (by decide), ⟨by decide, by decide, rfl, rfl, rfl⟩, nofun, nofun⟩
theorem witness_Inv_spi : (spiState four 0x00100051#32 (bytesUpTo 8) [7#8]).Inv :=
  ⟨by decide, ⟨by decide, by decide, rfl⟩, spiState_ok (by decide) (by decide), nofun, nofun⟩
/-- With two instances of each device. -/
theorem witness_Inv_dual : dualState.Inv :=
  ⟨by decide, ⟨by decide, by decide, rfl⟩, ⟨by decide, by decide, rfl, rfl, rfl⟩,
    fun _ hu => List.mem_singleton.1 hu ▸ ⟨by decide, by decide, rfl⟩,
    fun _ hc => List.mem_singleton.1 hc ▸ ⟨by decide, by decide, rfl, rfl, rfl⟩⟩
theorem witness_CtrlReadAfterCtrlWrite :
    (State.reset.params.uart.wf = true ∧ State.reset.uart.Ok State.reset.params ∧
      ∃ t u x, exec .uartRdCtrl State.reset = .next x ∧ exec (.uartWrCtrl 0xFFFFFFFF#32) State.reset = .next t ∧
        exec .uartRdCtrl t = .next u) ∧
    (State.reset.params.spi.wf = true ∧ State.reset.spi.Ok State.reset.params ∧
      ∃ t u x, exec .spiRdCtrl State.reset = .next x ∧ exec (.spiWrCtrl 0xFFFFFFFF#32) State.reset = .next t ∧
        exec .spiRdCtrl t = .next u) :=
  ⟨⟨by decide, ⟨by decide, by decide, rfl⟩, _, _, _, rfl, rfl, rfl⟩,
    ⟨by decide, ⟨by decide, by decide, rfl, rfl, rfl⟩, _, _, _, rfl, rfl, rfl⟩⟩
theorem witness_ReservedBitsReadZeroAndIgnoreWrites :
    (State.reset.uart.Ok State.reset.params ∧ ∃ t, exec .uartRdCtrl State.reset = .next t) ∧
      State.reset.params.spi.wf = true ∧ State.reset.spi.Ok State.reset.params ∧
      ∃ t, exec .spiRdCtrl State.reset = .next t :=
  ⟨⟨⟨by decide, by decide, rfl⟩, _, rfl⟩, by decide, ⟨by decide, by decide, rfl, rfl, rfl⟩, _, rfl⟩
theorem witness_OnlyCtrlWritesAndResetsChangeCfg :
    (∃ t, exec (.uartWrCtrl 1#32) State.reset = .next t ∧ t.uart.cfg ≠ State.reset.uart.cfg) ∧
      ∃ t, exec (.spiWrCtrl 1#32) State.reset = .next t ∧ t.spi.cfg ≠ State.reset.spi.cfg :=
  ⟨⟨_, rfl, by decide⟩, _, rfl, by decide⟩
theorem witness_IrqOutputEqualsTheLevelFunction :
    (Instr.uartEvRxDeliver 1#8).device = .uart ∧ (Instr.spiWrData 1#32).device = .spi := by decide
theorem witness_SpiWrCtrlStoresAndRoutes :
    (spiState four 0x00100051#32 (bytesUpTo 8) [7#8]).Inv ∧
      ∃ t, exec .spiEvReset (spiState four 0x00100051#32 (bytesUpTo 8) [7#8]) = .next t ∧
        t.spi.cs ≠ (spiState four 0x00100051#32 (bytesUpTo 8) [7#8]).spi.cs :=
  ⟨witness_Inv_spi, _, rfl, by decide⟩
theorem witness_SpiIrqLevelBetweenEvents :
    (spiState four 0x00100051#32 (bytesUpTo 8) [7#8]).Inv ∧
      ∃ t, exec .spiRdData (spiState four 0x00100051#32 (bytesUpTo 8) [7#8]) = .next t :=
  ⟨witness_Inv_spi, _, rfl⟩
/-- Each of the five clauses: its pair alone is enabled and true, and the write clears its enable. -/
theorem witness_ClearingTheOnlyActiveEnableDeassertsTheLine :
    (0 < (uartState 0x00400000#32 [1#8]).uart.rx.length ∧
      ¬(uartState 0x00400000#32 [1#8]).uart.cfg.getLsbD 25 = true ∧ (0#32).getLsbD 22 = false ∧
      (0#32).getLsbD 25 = (uartState 0x00400000#32 [1#8]).uart.cfg.getLsbD 25 ∧
      (uartState 0x00400000#32 [1#8]).uart.irq = true) ∧
    (¬((uartState 0x02400000#32 []).uart.cfg.getLsbD 22 = true ∧ 0 < (uartState 0x02400000#32 []).uart.rx.length) ∧
      (0x00400000#32).getLsbD 25 = false ∧
      (0x00400000#32).getLsbD 22 = (uartState 0x02400000#32 []).uart.cfg.getLsbD 22 ∧
      (uartState 0x02400000#32 []).uart.irq = true) ∧
    (∀ c ∈ [(0x00100000#32, 20), (0x00200000#32, 21), (0x00400000#32, 22)],
      0 < (spiState one c.1 [1#8] []).spi.rx.length ∧ (spiState one c.1 [1#8] []).spi.tx.length = 0 ∧
      (spiState one c.1 [1#8] []).spi.irq = true ∧ (0#32).getLsbD c.2 = false ∧
      ∀ k ∈ [20, 21, 22], k ≠ c.2 → (spiState one c.1 [1#8] []).spi.cfg.getLsbD k = (0#32).getLsbD k) := by decide
/-- Also for an index with no line. -/
theorem witness_ChipSelectLinesFollowThePriorityTable :
    (Instr.spiWrCtrl 0x50#32).device = .spi ∧
      ∃ t, exec (.spiWrCtrl 0x50#32) State.reset = .next t ∧ 0 < t.params.ncs.val ∧
        t.params.ncs.val ≤ Spec.csIndex (t.spi.cfg.getLsbD t.params.spi.csSel2)
          (t.spi.cfg.getLsbD t.params.spi.csSel1) (t.spi.cfg.getLsbD t.params.spi.csSel0) :=
  ⟨rfl, _, rfl, by decide, by decide⟩
theorem witness_AtMostOneChipSelectLineIsLow :
    (∃ t, exec (.spiWrCtrl 0x78#32) (spiState four 0#32 [] []) = .next t ∧ t.spi.cs = [true, true, false, true]) ∧
      ∃ t, exec .uartRdCtrl (uartState 0x0240FFFF#32 (bytesUpTo 32)) = .next t :=
  ⟨⟨_, rfl, by decide⟩, _, rfl⟩
theorem witness_PushAppendsOrReportsTheDrop :
    ((bytesUpTo 7).length ≤ 8 ∧ (bytesUpTo 7).length ≠ 8) ∧ (bytesUpTo 8).length ≤ 8 ∧ (bytesUpTo 8).length = 8 := by
  decide
theorem witness_FifoKeepsPushOrder :
    fifoRun 2 [some 1#8, some 2#8, none, some 3#8] [] = some ([2#8, 3#8], [1#8]) ∧ (bytesUpTo 8).length = 8 := by decide
/-- A step on the second UART. -/
theorem witness_EveryStepKeepsTheInvariant :
    let s := { dualState with pending := [.busRead 0xFFF5000C 4#6] }
    s.Inv ∧ ∃ t, step s = .next t ∧ t.answer = .value 0x41#32 ∧ t.moreUarts.map (·.dev) = [⟨0x00400000#32, [], false⟩] :=
  ⟨⟨witness_Inv_dual.config_wf, witness_Inv_dual.uart_ok, witness_Inv_dual.spi_ok, witness_Inv_dual.moreUarts_ok,
    witness_Inv_dual.moreSpis_ok⟩, _, rfl, rfl, rfl⟩
theorem witness_ConstructionRejectsNoLinesAndAttachesReset :
    (0 : Int) ≤ 0 ∧ (-1 : Int) ≤ 0 ∧ (0 : Int) < 1 ∧ Params.reference.wf = true := by decide
theorem witness_TxIsEmptyAtEveryBoundary :
    State.reset.spi.tx = [] ∧ ∃ t, exec .spiEvReset State.reset = .next t :=
  ⟨rfl, _, rfl⟩
theorem witness_ReadsRightAfterReset :
    State.reset.params.uart = UartLayout.reference ∧ State.reset.params.spi = SpiLayout.reference ∧
      (∃ t, exec .uartEvReset State.reset = .next t) ∧ ∃ t, exec .spiEvReset State.reset = .next t :=
  ⟨rfl, rfl, ⟨_, rfl⟩, _, rfl⟩
/-- Two states that differ only in what an event does not read. -/
theorem witness_AnEventDependsOnItsDeviceAlone :
    (State.reset.params = (uartState 0#32 []).params ∧ (Instr.uartRdCtrl).device = .uart ∧
      State.reset.uart = (uartState 0#32 []).uart) ∧
    ((Instr.spiRdCtrl).device = .spi ∧ State.reset.spi = (uartState 1#32 [1#8]).spi ∧
      State.reset.spiResponses = (uartState 1#32 [1#8]).spiResponses ∧
      State.reset.draws = (uartState 1#32 [1#8]).draws) := by decide
theorem witness_AnEventLeavesTheOtherDeviceAlone :
    (Instr.uartEvReset).device = .uart ∧ (Instr.spiEvReset).device = .spi := by decide
/-- The first and the last instance of each device. -/
theorem witness_AnEventReachesOnlyItsInstance :
    (0 ≤ dualState.moreUarts.length ∧ 1 ≤ dualState.moreUarts.length ∧ (Instr.uartRdData).device = .uart) ∧
      1 ≤ dualState.moreSpis.length ∧ (Instr.spiWrData 1#32).device = .spi := by decide
theorem witness_EveryInstanceBehavesAsTheFirst :
    (∃ u, dualState.uartAt 1 = some u ∧ (Instr.uartRdData).device = .uart) ∧
      ∃ c, dualState.spiAt 1 = some c ∧ (Instr.spiWrData 1#32).device = .spi ∧ dualState.draws = State.reset.draws :=
  ⟨⟨_, rfl, rfl⟩, _, rfl, rfl, rfl⟩
/-- A window right after that of the second UART fits; the counts 0 and 1 fall on the two sides. -/
theorem witness_FurtherInstancesAttachInReset :
    let p : UartParams := { Params.reference.uartParams with base := 0xFFF50010 }
    let c : SpiParams := { Params.reference.spiParams with base := 0xFFF80010 }
    dualState.Inv ∧ (dualState.attachUart p).configWf = true ∧ (0 : Int) ≤ 0 ∧ (0 : Int) < 1 ∧
      ∃ t, dualState.attachSpi c 1 = .ok t ∧ t.configWf = true :=
  ⟨witness_Inv_dual, by decide, by decide, by decide, _, rfl, by decide⟩
/-- The first UART and the second SPI controller, attached. -/
theorem witness_DetachDestroysTheInstance :
    (∃ u, dualState.uartAt 0 = some u ∧ u.attached = true) ∧ (∃ c, dualState.spiAt 1 = some c ∧ c.attached = true) ∧
      ({ dualState with pending := [.detach .spi 1] } : State).pending = .detach .spi 1 :: [] :=
  ⟨⟨_, rfl, rfl⟩, ⟨_, rfl, rfl⟩, rfl⟩
/-- A step on the first UART beside a detached second one; and a detached SPI controller. -/
theorem witness_NoStepChangesADetachedInstance :
    (∃ t u, step { detachedState with pending := [.busRead 0xFFF50000 4#6] } = .next t ∧
      detachedState.uartAt 1 = some u ∧ u.attached = false) ∧
    ∃ t c, step (State.reset.detach .spi 0) = .next t ∧ (State.reset.detach .spi 0).spiAt 0 = some c ∧
      c.attached = false :=
  ⟨⟨_, _, rfl, rfl, rfl⟩, _, _, rfl, rfl, rfl⟩
theorem witness_UartStoredFieldsGateNothing :
    Instr.uartEvRxDeliver 1#8 ≠ .uartRdCtrl ∧
      (0xFFFF#32).getLsbD 22 = State.reset.uart.cfg.getLsbD 22 ∧
      (0xFFFF#32).getLsbD 25 = State.reset.uart.cfg.getLsbD 25 := by decide
theorem witness_SpiStoredFieldsGateNothing :
    Instr.spiWrData 1#32 ≠ .spiRdCtrl ∧
      ∀ k ∈ [20, 21, 22, 3, 4, 5, 6], (0x3F87#32).getLsbD k = State.reset.spi.cfg.getLsbD k := by decide
theorem witness_AsmLinesSpellTheirEvents :
    (7#24 : Offset).toNat < State.reset.params.regionSize ∧ State.reset.uartAttached = true ∧
      State.reset.spiAttached = true := by decide
/-- At the last line a select field names, with just enough lines. -/
theorem witness_SpiSelectPseudoInstructionSelects :
    (State.reset.params.wf = true ∧ (0 : Fin 3).val < State.reset.params.ncs.val) ∧
      (spiState ⟨3, by decide⟩ 0#32 [] []).params.wf = true ∧
      (2 : Fin 3).val < (spiState ⟨3, by decide⟩ 0#32 [] []).params.ncs.val := by decide

end Sys2Proof.Tests
end

section
/-! SUPPORT. What an event can do, said once for each device and for all its instances: an instruction changes the
record, the histories and the log of its own device and the answer, and leaves the record with its pins at their levels.
The invariant is then kept by every step because it is kept where one UART or one SPI controller changes. -/

namespace Sys2Proof.Machine

/-! ### What an instruction leaves in a device's record -/

/-- The configuration an instruction leaves in the UART (R27, R202, R341). -/
def uartCfgAfter (l : UartLayout) (cfg : Word) : Instr → Word
  | .uartWrCtrl v => v &&& l.wmask
  | .uartEvReset => 0#32
  | _ => cfg

/-- The configuration an instruction leaves in the SPI controller (R27, R241, R341). -/
def spiCfgAfter (l : SpiLayout) (cfg : Word) : Instr → Word
  | .spiWrCtrl v => v &&& l.wmask
  | .spiEvReset => 0#32
  | _ => cfg

/-- `u'` is a record the instruction can leave in a UART whose record was `u`. -/
structure Uart.After (p : Params) (i : Instr) (u u' : Uart) : Prop where
  cfg_eq : u'.cfg = uartCfgAfter p.uart u.cfg i
  rx_fits : u.rx.length ≤ uartRxCap → u'.rx.length ≤ uartRxCap
  irq_level : u'.irq = uartIrqLevel p.uart u'

/-- `c'` is a record the instruction can leave in an SPI controller whose record was `c`. -/
structure Spi.After (p : Params) (i : Instr) (c c' : Spi) : Prop where
  cfg_eq : c'.cfg = spiCfgAfter p.spi c.cfg i
  rx_fits : c.rx.length ≤ spiRxCap → c'.rx.length ≤ spiRxCap
  tx_empty : c.tx = [] → c'.tx = []
  cs_levels : c'.cs = csLevels p c'.cfg
  irq_level : c'.irq = spiIrqLevel p.spi c'

theorem eq_of_uartCfgAfter_ne {l : UartLayout} {cfg : Word} {i : Instr} (h : uartCfgAfter l cfg i ≠ cfg) :
    i = .uartEvReset ∨ ∃ v, i = .uartWrCtrl v := by
  cases i
  case uartWrCtrl v => exact .inr ⟨v, rfl⟩
  case uartEvReset => exact .inl rfl
  all_goals exact absurd rfl h

theorem eq_of_spiCfgAfter_ne {l : SpiLayout} {cfg : Word} {i : Instr} (h : spiCfgAfter l cfg i ≠ cfg) :
    i = .spiEvReset ∨ ∃ v, i = .spiWrCtrl v := by
  cases i
  case spiWrCtrl v => exact .inr ⟨v, rfl⟩
  case spiEvReset => exact .inl rfl
  all_goals exact absurd rfl h

/-- What a CTRL write stores lies in the mask it was cut to. -/
theorem and_and_not_self (v m : Word) : v &&& m &&& ~~~m = 0#32 := by
  simp [BitVec.and_assoc]

theorem uartCfgAfter_writable {l : UartLayout} {cfg : Word} (h : cfg &&& ~~~l.wmask = 0#32) (i : Instr) :
    uartCfgAfter l cfg i &&& ~~~l.wmask = 0#32 := by
  cases i
  case uartWrCtrl v => exact and_and_not_self v l.wmask
  case uartEvReset => exact BitVec.zero_and
  all_goals exact h

theorem spiCfgAfter_writable {l : SpiLayout} {cfg : Word} (h : cfg &&& ~~~l.wmask = 0#32) (i : Instr) :
    spiCfgAfter l cfg i &&& ~~~l.wmask = 0#32 := by
  cases i
  case spiWrCtrl v => exact and_and_not_self v l.wmask
  case spiEvReset => exact BitVec.zero_and
  all_goals exact h

theorem Uart.After.ok {p : Params} {i : Instr} {u u' : Uart} (h : u.After p i u') (hu : u.Ok p) : u'.Ok p where
  cfg_writable := h.cfg_eq ▸ uartCfgAfter_writable hu.cfg_writable i
  rx_fits := h.rx_fits hu.rx_fits
  irq_level := h.irq_level

theorem Spi.After.ok {p : Params} {i : Instr} {c c' : Spi} (h : c.After p i c') (hc : c.Ok p) : c'.Ok p where
  cfg_writable := h.cfg_eq ▸ spiCfgAfter_writable hc.cfg_writable i
  rx_fits := h.rx_fits hc.rx_fits
  tx_empty := h.tx_empty hc.tx_empty
  cs_levels := h.cs_levels
  irq_level := h.irq_level

/-! ### What an instruction does to the whole state -/

/-- Every UART instruction completes and changes the UART's record, its history, its log and the answer alone. -/
theorem exec_uart {i : Instr} (hi : i.device = .uart) (s : State) :
    ∃ u' out log a, exec i s = .next (State.withAnswer { s with uart := u', uartOut := out, uartLog := log } a) ∧
      s.uart.After s.params i u' := by
  cases i
  case uartRdCtrl => exact ⟨_, _, _, _, exec_uartRdCtrl s, rfl, id, rfl⟩
  case uartWrCtrl v => exact ⟨_, _, _, _, exec_uartWrCtrl v s, rfl, id, rfl⟩
  case uartWrData v => exact ⟨_, _, _, _, exec_uartWrData v s, rfl, id, rfl⟩
  case uartRdInvalid off w => exact ⟨_, _, _, _, exec_uartRdInvalid off w s, rfl, id, rfl⟩
  case uartWrInvalid off w v => exact ⟨_, _, _, _, exec_uartWrInvalid off w v s, rfl, id, rfl⟩
  case uartEvReset => exact ⟨_, _, _, _, exec_uartEvReset s, rfl, fun _ => Nat.zero_le _, rfl⟩
  case uartQCanReceive => exact ⟨_, _, _, _, exec_uartQCanReceive s, rfl, id, rfl⟩
  case uartRdData =>
    cases hq : s.uart.rx with
    | nil => exact ⟨_, _, _, _, exec_uartRdData_empty hq, rfl, id, rfl⟩
    | cons b q =>
      refine ⟨_, _, _, _, exec_uartRdData_cons (q := q) hq, rfl, fun h => ?_, rfl⟩
      rw [hq] at h
      exact Nat.le_of_succ_le h
  case uartEvRxDeliver b =>
    by_cases hroom : s.uart.rx.length < uartRxCap
    · refine ⟨_, _, _, _, exec_uartEvRxDeliver_room b hroom, rfl, fun _ => ?_, rfl⟩
      simpa using hroom
    · exact ⟨_, _, _, _, exec_uartEvRxDeliver_full b (Nat.not_lt.1 hroom), rfl, id, rfl⟩
  all_goals cases hi

/-- A flush changes the SPI's record, its history, its log and the downstream bus alone. -/
theorem State.flushBytes_eq (q : List Byte) (s : State) :
    ∃ c xfers log responses draws, State.flushBytes q s =
      { s with spi := c, spiXfers := xfers, spiLog := log, spiResponses := responses, draws := draws } := by
  induction q generalizing s with
  | nil => exact ⟨_, _, _, _, _, rfl⟩
  | cons b q ih =>
    obtain ⟨c, xfers, log, responses, draws, h⟩ := ih ((s.setSpiTx q).exchange b)
    rw [flushBytes_cons, h, exchange_eq]
    exact ⟨c, xfers, log, responses, draws, rfl⟩

/-- Every SPI instruction completes and changes the SPI's record, its history, its log, the downstream bus and the
answer alone. -/
theorem exec_spi {i : Instr} (hi : i.device = .spi) (s : State) :
    ∃ c' xfers log responses draws a, exec i s = .next (State.withAnswer
        { s with spi := c', spiXfers := xfers, spiLog := log, spiResponses := responses, draws := draws } a) ∧
      s.spi.After s.params i c' := by
  cases i
  case spiRdCtrl => exact ⟨_, _, _, _, _, _, exec_spiRdCtrl s, rfl, id, id, rfl, rfl⟩
  case spiWrCtrl v => exact ⟨_, _, _, _, _, _, exec_spiWrCtrl v s, rfl, id, id, rfl, rfl⟩
  case spiRdInvalid off w => exact ⟨_, _, _, _, _, _, exec_spiRdInvalid off w s, rfl, id, id, rfl, rfl⟩
  case spiWrInvalid off w v => exact ⟨_, _, _, _, _, _, exec_spiWrInvalid off w v s, rfl, id, id, rfl, rfl⟩
  case spiEvReset =>
    exact ⟨_, _, _, _, _, _, exec_spiEvReset s, rfl, fun _ => Nat.zero_le _, fun _ => rfl, rfl, rfl⟩
  case spiRdData =>
    cases hq : s.spi.rx with
    | nil => exact ⟨_, _, _, _, _, _, exec_spiRdData_empty hq, rfl, id, id, rfl, rfl⟩
    | cons b q =>
      refine ⟨_, _, _, _, _, _, exec_spiRdData_cons (q := q) hq, rfl, fun h => ?_, id, rfl, rfl⟩
      rw [hq] at h
      exact Nat.le_of_succ_le h
  case spiWrData v =>
    have hexec := exec_spiWrData v s
    generalize hm : s.setSpiTx (fifoPush spiTxCap s.spi.tx (dataByte v)).1 = m at hexec
    obtain ⟨c, xfers, log, responses, draws, heq⟩ := State.flushBytes_eq m.spi.tx m
    obtain ⟨-, -, -, -, -, -, hcfg, -, hrx, htx⟩ := State.flushBytes_frame m.spi.tx m
    rw [heq] at hcfg hrx htx
    rw [State.flush, heq] at hexec
    subst hm
    exact ⟨_, _, _, _, _, _, hexec, hcfg, hrx, fun _ => htx rfl, rfl, rfl⟩
  all_goals cases hi

/-! ### All instances of a device, and changing one of them (R74) -/

/-- The UARTs in the order of their numbers. -/
def State.uarts (s : State) : List UartInstance := s.firstUart :: s.moreUarts

/-- The SPI controllers in the order of their numbers. -/
def State.spis (s : State) : List SpiInstance := s.firstSpi :: s.moreSpis

/-- The state with the given UART under the given number. -/
def State.setUartAt (s : State) (inst : Nat) (u : UartInstance) : State :=
  match inst with
  | 0 => s.putUart u
  | k + 1 => { s with moreUarts := s.moreUarts.set k u }

/-- The state with the given SPI controller under the given number. -/
def State.setSpiAt (s : State) (inst : Nat) (c : SpiInstance) : State :=
  match inst with
  | 0 => s.putSpi c
  | k + 1 => { s with moreSpis := s.moreSpis.set k c }

theorem State.uartAt_eq_getElem? (s : State) (inst : Nat) : s.uartAt inst = s.uarts[inst]? := by
  cases inst <;> rfl
theorem State.spiAt_eq_getElem? (s : State) (inst : Nat) : s.spiAt inst = s.spis[inst]? := by
  cases inst <;> rfl
theorem State.uartWindows_eq (s : State) :
    s.uartWindows = s.uarts.map fun u => windowOf u.attached u.params.base := rfl
theorem State.spiWindows_eq (s : State) :
    s.spiWindows = s.spis.map fun c => windowOf c.attached c.params.base := rfl

section SetAt
variable (s : State) (inst : Nat)

@[simp] theorem State.setUartAt_uarts (u : UartInstance) : (s.setUartAt inst u).uarts = s.uarts.set inst u := by
  cases inst <;> rfl
@[simp] theorem State.setUartAt_spis (u : UartInstance) : (s.setUartAt inst u).spis = s.spis := by
  cases inst <;> rfl
@[simp] theorem State.setSpiAt_spis (c : SpiInstance) : (s.setSpiAt inst c).spis = s.spis.set inst c := by
  cases inst <;> rfl
@[simp] theorem State.setSpiAt_uarts (c : SpiInstance) : (s.setSpiAt inst c).uarts = s.uarts := by
  cases inst <;> rfl

end SetAt

/-- A UART put in place of one with the same parameters leaves the block's parameters. -/
theorem State.setUartAt_params {s : State} {inst : Nat} {u u' : UartInstance} (hu : s.uartAt inst = some u)
    (hp : u'.params = u.params) : (s.setUartAt inst u').params = s.params := by
  cases inst with
  | zero =>
    obtain rfl : s.firstUart = u := Option.some.inj hu
    exact congrArg s.params.withUart hp
  | succ k => rfl

theorem State.setSpiAt_params {s : State} {inst : Nat} {c c' : SpiInstance} (hc : s.spiAt inst = some c)
    (hp : c'.params = c.params) : (s.setSpiAt inst c').params = s.params := by
  cases inst with
  | zero =>
    obtain rfl : s.firstSpi = c := Option.some.inj hc
    exact congrArg s.params.withSpi hp
  | succ k => rfl

/-- A UART brought into first place, changed there and brought back is that UART changed under its number. -/
theorem State.focus_uart_back {s : State} {inst : Nat} {u : UartInstance} (hu : s.uartAt inst = some u) (d : Uart)
    (out : List Byte) (log : List LogRecord) (a : Answer) :
    (State.withAnswer { s.focus .uart inst with uart := d, uartOut := out, uartLog := log } a).focus .uart inst =
      (s.setUartAt inst { u with dev := d, out := out, log := log }).withAnswer a := by
  cases inst with
  | zero =>
    obtain rfl : s.firstUart = u := Option.some.inj hu
    rfl
  | succ k =>
    have hk : s.moreUarts[k]? = some u := hu
    rw [focus_uart_succ, focus_uart_succ, swapUart_back hk, swapUart_of_some hk] <;> rfl

theorem State.focus_spi_back {s : State} {inst : Nat} {c : SpiInstance} (hc : s.spiAt inst = some c) (d : Spi)
    (xfers : List SpiXfer) (log : List LogRecord) (responses : List Byte) (draws : Nat) (a : Answer) :
    (State.withAnswer { s.focus .spi inst with
        spi := d, spiXfers := xfers, spiLog := log, spiResponses := responses, draws := draws } a).focus .spi inst =
      State.withAnswer { s.setSpiAt inst { c with dev := d, xfers := xfers, log := log, responses := responses } with
        draws := draws } a := by
  cases inst with
  | zero =>
    obtain rfl : s.firstSpi = c := Option.some.inj hc
    rfl
  | succ k =>
    have hk : s.moreSpis[k]? = some c := hc
    rw [focus_spi_succ, focus_spi_succ, swapSpi_back hk, swapSpi_of_some hk] <;> rfl

theorem State.focus_uart_params {s : State} {inst : Nat} {u : UartInstance} (hu : s.uartAt inst = some u) :
    (s.focus .uart inst).params = s.params.withUart u.params := by
  cases inst with
  | zero =>
    obtain rfl : s.firstUart = u := Option.some.inj hu
    rfl
  | succ k => rw [focus_uart_succ, swapUart_of_some hu]; rfl

theorem State.focus_spi_params {s : State} {inst : Nat} {c : SpiInstance} (hc : s.spiAt inst = some c) :
    (s.focus .spi inst).params = s.params.withSpi c.params := by
  cases inst with
  | zero =>
    obtain rfl : s.firstSpi = c := Option.some.inj hc
    rfl
  | succ k => rw [focus_spi_succ, swapSpi_of_some hc]; rfl

/-- An instruction on a UART completes and changes that UART and the answer alone. -/
theorem execAt_uart {i : Instr} (hi : i.device = .uart) {s : State} {inst : Nat} {u : UartInstance}
    (hu : s.uartAt inst = some u) :
    ∃ d out log a, execAt inst i s =
        .next ((s.setUartAt inst { u with dev := d, out := out, log := log }).withAnswer a) ∧
      u.dev.After (s.params.withUart u.params) i d := by
  obtain ⟨d, out, log, a, hexec, hafter⟩ := exec_uart hi (s.focus .uart inst)
  have hdev : (s.focus .uart inst).uart = u.dev := congrArg UartInstance.dev (State.focus_firstUart hu)
  rw [State.focus_uart_params hu, hdev] at hafter
  refine ⟨d, out, log, a, ?_, hafter⟩
  rw [execAt_next (by rw [hi]; exact hexec), hi, State.focus_uart_back hu]

/-- An instruction on an SPI controller completes and changes that controller, the count of draws and the answer
alone. -/
theorem execAt_spi {i : Instr} (hi : i.device = .spi) {s : State} {inst : Nat} {c : SpiInstance}
    (hc : s.spiAt inst = some c) :
    ∃ d xfers log responses draws a, execAt inst i s =
        .next (State.withAnswer { s.setSpiAt inst { c with
          dev := d, xfers := xfers, log := log, responses := responses } with draws := draws } a) ∧
      c.dev.After (s.params.withSpi c.params) i d := by
  obtain ⟨d, xfers, log, responses, draws, a, hexec, hafter⟩ := exec_spi hi (s.focus .spi inst)
  have hdev : (s.focus .spi inst).spi = c.dev := congrArg SpiInstance.dev (State.focus_firstSpi hc)
  rw [State.focus_spi_params hc, hdev] at hafter
  refine ⟨d, xfers, log, responses, draws, a, ?_, hafter⟩
  rw [execAt_next (by rw [hi]; exact hexec), hi, State.focus_spi_back hc]

theorem State.detach_uart_eq_setUartAt {s : State} {inst : Nat} {u : UartInstance} (hu : s.uartAt inst = some u) :
    s.detach .uart inst = s.setUartAt inst { u with dev := Uart.atAttach, attached := false } := by
  rw [State.detach_uart hu]
  cases inst with
  | zero =>
    obtain rfl : s.firstUart = u := Option.some.inj hu
    rfl
  | succ k => rfl

theorem State.detach_spi_eq_setSpiAt {s : State} {inst : Nat} {c : SpiInstance} (hc : s.spiAt inst = some c) :
    s.detach .spi inst = s.setSpiAt inst { c with dev := Spi.atAttach c.params.ncs, attached := false } := by
  rw [State.detach_spi hc]
  cases inst with
  | zero =>
    obtain rfl : s.firstSpi = c := Option.some.inj hc
    rfl
  | succ k => rfl

/-! ### The configuration and the invariant, over all instances -/

theorem Params.wf_iff {p : Params} :
    p.wf = true ↔ p.uart.wf = true ∧ p.spi.wf = true ∧ 8 ≤ p.regionSize ∧ p.regionSize ≤ 2 ^ 24 ∧
      (p.uartBase + p.regionSize ≤ p.spiBase ∨ p.spiBase + p.regionSize ≤ p.uartBase) := by
  simp only [Params.wf, Bool.and_eq_true, Bool.or_eq_true, decide_eq_true_eq, and_assoc]

/-- The windows of the attached instances are apart (log 11). -/
def State.WindowsApart (s : State) : Prop :=
  ((s.uartWindows ++ s.spiWindows).filterMap id).Pairwise fun a b =>
    a + s.params.regionSize ≤ b ∨ b + s.params.regionSize ≤ a

theorem State.configWf_iff {s : State} :
    s.configWf = true ↔ s.params.wf = true ∧ (∀ u ∈ s.uarts, u.params.layout.wf = true) ∧
      (∀ c ∈ s.spis, c.params.layout.wf = true) ∧ s.WindowsApart := by
  simp only [State.configWf, Bool.and_eq_true, List.all_eq_true, windowsApart_iff, State.uarts, State.spis,
    List.forall_mem_cons, and_assoc]
  constructor
  · rintro ⟨hp, hu, hc, hw⟩
    obtain ⟨huart, hspi, -⟩ := Params.wf_iff.1 hp
    exact ⟨hp, huart, hu, hspi, hc, hw⟩
  · rintro ⟨hp, -, hu, -, hc, hw⟩
    exact ⟨hp, hu, hc, hw⟩

theorem State.inv_iff {s : State} :
    s.Inv ↔ s.configWf = true ∧ (∀ u ∈ s.uarts, u.dev.Ok (s.params.withUart u.params)) ∧
      ∀ c ∈ s.spis, c.dev.Ok (s.params.withSpi c.params) := by
  simp only [State.uarts, State.spis, List.forall_mem_cons]
  exact ⟨fun h => ⟨h.config_wf, ⟨h.uart_ok, h.moreUarts_ok⟩, h.spi_ok, h.moreSpis_ok⟩,
    fun ⟨hconfig, ⟨huart, huarts⟩, hspi, hspis⟩ => ⟨hconfig, huart, hspi, huarts, hspis⟩⟩

theorem forall_mem_set {α : Type} {P : α → Prop} {l : List α} {k : Nat} {a : α} (h : ∀ x ∈ l, P x)
    (ha : P a) : ∀ x ∈ l.set k a, P x := fun x hx => (List.mem_or_eq_of_mem_set hx).elim (h x) fun hxa => hxa ▸ ha

/-- Setting an entry whose window closes, or stays as it was, opens no window. -/
theorem openWindows_set_sublist {α : Type} {window : α → Option Nat} {l : List α} {k : Nat} {a a' : α}
    (hk : l[k]? = some a) (hw : window a' = none ∨ window a' = window a) :
    (((l.set k a').map window).filterMap id).Sublist ((l.map window).filterMap id) := by
  induction l generalizing k with
  | nil => cases hk
  | cons b l ih =>
    cases k with
    | zero =>
      obtain rfl : b = a := Option.some.inj hk
      rw [List.set_cons_zero, List.map_cons, List.map_cons]
      rcases hw with hw | hw <;> rw [hw]
      exact (List.sublist_cons_self _ _).filterMap id
    | succ k =>
      have := ih (k := k) hk
      rw [List.set_cons_succ, List.map_cons, List.map_cons]
      cases window b with
      | none => exact this
      | some base => exact this.cons_cons base

theorem windowOf_eq_none_or {attached attached' : Bool} (base : Nat) (h : attached' = true → attached = true) :
    windowOf attached' base = none ∨ windowOf attached' base = windowOf attached base := by
  cases attached'
  · exact .inl rfl
  · exact .inr (by rw [h rfl])

/-- The invariant is kept where all that changes is one UART, which keeps its parameters, is not attached anew, and is
left as between two events. -/
theorem State.Inv.of_uarts_set {s t : State} (hs : s.Inv) {inst : Nat} {u u' : UartInstance}
    (hu : s.uartAt inst = some u) (hparams : t.params = s.params) (huarts : t.uarts = s.uarts.set inst u')
    (hspis : t.spis = s.spis) (hp : u'.params = u.params) (ha : u'.attached = true → u.attached = true)
    (hok : u.dev.Ok (s.params.withUart u.params) → u'.dev.Ok (s.params.withUart u.params)) : t.Inv := by
  obtain ⟨hconfig, huok, hcok⟩ := State.inv_iff.1 hs
  obtain ⟨hwf, hul, hcl, hapart⟩ := State.configWf_iff.1 hconfig
  rw [State.uartAt_eq_getElem?] at hu
  have hmem : u ∈ s.uarts := List.mem_of_getElem? hu
  refine State.inv_iff.2 ⟨State.configWf_iff.2 ⟨hparams ▸ hwf, ?_, hspis ▸ hcl, ?_⟩, ?_, ?_⟩
  · rw [huarts]
    exact forall_mem_set hul (hp ▸ hul u hmem)
  · rw [State.WindowsApart, List.filterMap_append, State.uartWindows_eq, State.spiWindows_eq] at hapart ⊢
    rw [hparams, huarts, hspis]
    exact hapart.sublist (.append (openWindows_set_sublist hu (hp ▸ windowOf_eq_none_or _ ha)) (.refl _))
  · rw [hparams, huarts]
    exact forall_mem_set huok (hp ▸ hok (huok u hmem))
  · rw [hparams, hspis]
    exact hcok

/-- The same where all that changes is one SPI controller. -/
theorem State.Inv.of_spis_set {s t : State} (hs : s.Inv) {inst : Nat} {c c' : SpiInstance}
    (hc : s.spiAt inst = some c) (hparams : t.params = s.params) (huarts : t.uarts = s.uarts)
    (hspis : t.spis = s.spis.set inst c') (hp : c'.params = c.params) (ha : c'.attached = true → c.attached = true)
    (hok : c.dev.Ok (s.params.withSpi c.params) → c'.dev.Ok (s.params.withSpi c.params)) : t.Inv := by
  obtain ⟨hconfig, huok, hcok⟩ := State.inv_iff.1 hs
  obtain ⟨hwf, hul, hcl, hapart⟩ := State.configWf_iff.1 hconfig
  rw [State.spiAt_eq_getElem?] at hc
  have hmem : c ∈ s.spis := List.mem_of_getElem? hc
  refine State.inv_iff.2 ⟨State.configWf_iff.2 ⟨hparams ▸ hwf, huarts ▸ hul, ?_, ?_⟩, ?_, ?_⟩
  · rw [hspis]
    exact forall_mem_set hcl (hp ▸ hcl c hmem)
  · rw [State.WindowsApart, List.filterMap_append, State.uartWindows_eq, State.spiWindows_eq] at hapart ⊢
    rw [hparams, huarts, hspis]
    exact hapart.sublist (.append (.refl _) (openWindows_set_sublist hc (hp ▸ windowOf_eq_none_or _ ha)))
  · rw [hparams, huarts]
    exact huok
  · rw [hparams, hspis]
    exact forall_mem_set hcok (hp ▸ hok (hcok c hmem))

/-- No request still to come has a part in the invariant. -/
theorem State.Inv.withPending {s : State} (hs : s.Inv) (rest : List Request) : State.Inv { s with pending := rest } :=
  ⟨hs.config_wf, hs.uart_ok, hs.spi_ok, hs.moreUarts_ok, hs.moreSpis_ok⟩

/-- A UART at attach is as between two events (R44). -/
theorem Uart.atAttach_ok (p : Params) : Uart.atAttach.Ok p where
  cfg_writable := BitVec.zero_and
  rx_fits := Nat.zero_le _
  irq_level := by simp [uartIrqLevel_spec, Spec.uartLevel, Uart.atAttach]

theorem Spi.atAttach_ok (p : Params) : (Spi.atAttach p.ncs).Ok p where
  cfg_writable := BitVec.zero_and
  rx_fits := Nat.zero_le _
  tx_empty := rfl
  cs_levels := (csLevels_zero p).symm
  irq_level := by simp [spiIrqLevel_spec, Spec.spiLevel, Spi.atAttach]

/-- An instruction on an attached device keeps the invariant. -/
theorem State.Inv.execAt {s t : State} (hs : s.Inv) {inst : Nat} {i : Instr} (hi : s.isAttached i.device inst = true)
    (ht : execAt inst i s = .next t) : t.Inv := by
  cases hdev : i.device with
  | uart =>
    obtain ⟨u, hu, -⟩ := State.isAttached_uart.1 (hdev ▸ hi)
    obtain ⟨d, out, log, a, hexec, hafter⟩ := execAt_uart hdev hu
    obtain rfl := Host.Outcome.next.inj (hexec.symm.trans ht)
    exact hs.of_uarts_set hu (State.setUartAt_params hu rfl) (s.setUartAt_uarts inst _) (s.setUartAt_spis inst _) rfl
      id hafter.ok
  | spi =>
    obtain ⟨c, hc, -⟩ := State.isAttached_spi.1 (hdev ▸ hi)
    obtain ⟨d, xfers, log, responses, draws, a, hexec, hafter⟩ := execAt_spi hdev hc
    obtain rfl := Host.Outcome.next.inj (hexec.symm.trans ht)
    exact hs.of_spis_set hc (State.setSpiAt_params hc rfl) (s.setSpiAt_uarts inst _) (s.setSpiAt_spis inst _) rfl
      id hafter.ok

/-- A detach keeps the invariant: the device's window closes, and its record is as at attach. -/
theorem State.Inv.detach {s : State} (hs : s.Inv) {dev : Device} {inst : Nat} (ha : s.isAttached dev inst = true) :
    (s.detach dev inst).Inv := by
  cases dev with
  | uart =>
    obtain ⟨u, hu, -⟩ := State.isAttached_uart.1 ha
    rw [State.detach_uart_eq_setUartAt hu]
    exact hs.of_uarts_set hu (State.setUartAt_params hu rfl) (s.setUartAt_uarts inst _) (s.setUartAt_spis inst _) rfl
      (fun h => nomatch h) fun _ => Uart.atAttach_ok _
  | spi =>
    obtain ⟨c, hc, -⟩ := State.isAttached_spi.1 ha
    rw [State.detach_spi_eq_setSpiAt hc]
    exact hs.of_spis_set hc (State.setSpiAt_params hc rfl) (s.setSpiAt_uarts inst _) (s.setSpiAt_spis inst _) rfl
      (fun h => nomatch h) fun _ => Spi.atAttach_ok _

/-- Settles O43: an idle step changes nothing, and an instruction or a detach changes one UART or
one SPI controller. -/
theorem everyStepKeepsTheInvariant : Obligations.EveryStepKeepsTheInvariant := by
  intro s t hs hstep
  rcases step_eq_next hstep with ⟨-, rfl⟩ | ⟨r, rest, inst, i, -, hi, hexec⟩ | ⟨dev, inst, rest, -, ha, rfl⟩
  · exact hs
  · exact (hs.withPending rest).execAt hi hexec
  · exact (hs.withPending rest).detach ha

/-! ### The state at attach (R44, R340) -/

/-- A block attached with parameters that are a configuration is between two events. -/
theorem State.attach_inv {p : Params} (h : p.wf = true) : (State.attach p).Inv := by
  obtain ⟨huart, hspi, -, -, hapart⟩ := Params.wf_iff.1 h
  have hconfig : (State.attach p).configWf = true :=
    State.configWf_iff.2 ⟨h, List.forall_mem_singleton.2 huart, List.forall_mem_singleton.2 hspi,
      List.pairwise_pair.2 hapart⟩
  exact ⟨hconfig, Uart.atAttach_ok p, Spi.atAttach_ok p, fun _ hu => (nomatch hu), fun _ hc => (nomatch hc)⟩

/-- Settles O44: the reference parameters are a configuration. -/
theorem resetMeetsTheInvariant : Obligations.ResetMeetsTheInvariant := State.attach_inv (by decide)

/-! ### Configuration and interrupt output of the first instances -/

/-- Settles O35: an instruction leaves the other device's record, and of its own the configuration that it stores. -/
theorem onlyCtrlWritesAndResetsChangeCfg : Obligations.OnlyCtrlWritesAndResetsChangeCfg := by
  intro i s t ht
  cases hi : i.device with
  | uart =>
    obtain ⟨u', out, log, a, hexec, hafter⟩ := exec_uart hi s
    obtain rfl := Host.Outcome.next.inj (hexec.symm.trans ht)
    exact ⟨fun h => eq_of_uartCfgAfter_ne (hafter.cfg_eq ▸ h), fun h => absurd rfl h⟩
  | spi =>
    obtain ⟨c', xfers, log, responses, draws, a, hexec, hafter⟩ := exec_spi hi s
    obtain rfl := Host.Outcome.next.inj (hexec.symm.trans ht)
    exact ⟨fun h => absurd rfl h, fun h => eq_of_spiCfgAfter_ne (hafter.cfg_eq ▸ h)⟩

/-- Settles O36: every instruction ends with the recomputation of its device's outputs. -/
theorem irqOutputEqualsTheLevelFunction : Obligations.IrqOutputEqualsTheLevelFunction := by
  intro i s
  cases hi : i.device with
  | uart =>
    obtain ⟨u', out, log, a, hexec, hafter⟩ := exec_uart hi s
    exact ⟨_, hexec, fun _ => hafter.irq_level.trans (uartIrqLevel_spec _ _), nofun⟩
  | spi =>
    obtain ⟨c', xfers, log, responses, draws, a, hexec, hafter⟩ := exec_spi hi s
    exact ⟨_, hexec, nofun, fun _ => hafter.irq_level.trans (spiIrqLevel_spec _ _)⟩

/-! ### Reserved bits (R31, R35) -/

/-- A word cut to the bits that are not reserved keeps all its writable bits. -/
theorem and_not_resmask_and_wmask (v wm rm : Word) : v &&& ~~~(~~~(wm ||| rm)) &&& wm = v &&& wm := by
  have habsorb : (wm ||| rm) &&& wm = wm := by
    refine word_ext fun j _ => ?_
    rw [BitVec.getLsbD_and, BitVec.getLsbD_or]
    cases wm.getLsbD j <;> simp
  rw [BitVec.not_not, BitVec.and_assoc, habsorb]

/-- A stored word inside the writable mask, beside a status inside the read-only mask, shows no reserved bit. -/
theorem or_and_resmask {v st wm rm : Word} (hv : v &&& ~~~wm = 0#32)
    (hst : ∀ k, st.getLsbD k = true → rm.getLsbD k = true) : (v ||| st) &&& ~~~(wm ||| rm) = 0#32 := by
  refine and_not_eq_zero_iff.2 fun j hj => ?_
  rw [BitVec.getLsbD_or, Bool.or_eq_true] at hj ⊢
  exact hj.imp (and_not_eq_zero_iff.1 hv j) (hst j)

/-- Settles O34: a CTRL write stores writable bits alone, and a CTRL read joins them with read-only ones. -/
theorem reservedBitsReadZeroAndIgnoreWrites : Obligations.ReservedBitsReadZeroAndIgnoreWrites := by
  refine ⟨by decide, by decide, fun v s => ⟨?_, ?_, fun hok t ht => ?_, fun hwf hok t ht => ?_⟩⟩
  · rw [exec_uartWrCtrl, exec_uartWrCtrl, UartLayout.resmask, and_not_resmask_and_wmask]
  · rw [exec_spiWrCtrl, exec_spiWrCtrl, SpiLayout.resmask, and_not_resmask_and_wmask]
  · obtain rfl := Host.Outcome.next.inj ((exec_uartRdCtrl s).symm.trans ht)
    exact ⟨_, rfl, or_and_resmask hok.cfg_writable (uartStatus_in_romask _ _)⟩
  · obtain rfl := Host.Outcome.next.inj ((exec_spiRdCtrl s).symm.trans ht)
    exact ⟨_, rfl, or_and_resmask hok.cfg_writable (spiStatus_in_romask hwf _)⟩

end Sys2Proof.Machine
end

section
/-! SUPPORT. What an event does is fixed by its device's own inputs: its parameters and record and, for the SPI, the
downstream bus. It leaves a record, gives an answer, and appends to the history and the log whatever they held. This is
proved for each shared operation, and so for every composition of them. -/

namespace Sys2Proof.Machine

/-! ### Operations of the UART -/

/-- What an operation leaves in the UART: its record, and what it appends to the history and to the log. -/
structure UartEffect where
  dev     : Uart
  sent    : List Byte
  records : List LogRecord

/-- The state with the effect on its first UART. -/
def State.applyUart (s : State) (e : UartEffect) : State :=
  { s with uart := e.dev, uartOut := s.uartOut ++ e.sent, uartLog := s.uartLog ++ e.records }

/-- The first UARTs of the two states have the same parameters and the same record. -/
structure State.SameUart (s s' : State) : Prop where
  params : s'.params.uartParams = s.params.uartParams
  dev : s'.uart = s.uart

/-- The operation does the same to the UART of every state that has the same one. -/
def UartLocal (f : State → State) : Prop :=
  ∀ s : State, ∃ e, ∀ s', s.SameUart s' → f s' = s'.applyUart e

section SameUart
variable {s s' : State}

theorem State.SameUart.refl (s : State) : s.SameUart s := ⟨rfl, rfl⟩

theorem State.SameUart.layout (h : s.SameUart s') : s'.params.uart = s.params.uart :=
  congrArg UartParams.layout h.params

theorem State.SameUart.dataInfo (h : s.SameUart s') : dataInfo s'.params = dataInfo s.params :=
  congrArg (fun p : UartParams => p.dataInfo &&& 0xFFFFFF00#32) h.params

theorem State.SameUart.applyUart (h : s.SameUart s') (e : UartEffect) :
    (s.applyUart e).SameUart (s'.applyUart e) := ⟨h.params, rfl⟩

end SameUart

theorem UartLocal.comp {g f : State → State} (hg : UartLocal g) (hf : UartLocal f) : UartLocal (g ∘ f) := by
  intro s
  obtain ⟨e, he⟩ := hf s
  obtain ⟨e', he'⟩ := hg (s.applyUart e)
  refine ⟨⟨e'.dev, e.sent ++ e'.sent, e.records ++ e'.records⟩, fun s' h => ?_⟩
  rw [Function.comp_apply, he s' h, he' _ (h.applyUart e)]
  simp [State.applyUart]

theorem uartLocal_recomputeUart : UartLocal State.recomputeUart := fun s =>
  ⟨⟨s.uart.recompute s.params, [], []⟩, fun s' h => by
    simp [State.recomputeUart, State.applyUart, Uart.recompute, h.layout, h.dev]⟩

theorem uartLocal_setUartCfg (v : Word) : UartLocal (·.setUartCfg v) := fun s =>
  ⟨⟨{ s.uart with cfg := v }, [], []⟩, fun s' h => by simp [State.setUartCfg, State.applyUart, h.dev]⟩

theorem uartLocal_setUartRx (q : List Byte) : UartLocal (·.setUartRx q) := fun s =>
  ⟨⟨{ s.uart with rx := q }, [], []⟩, fun s' h => by simp [State.setUartRx, State.applyUart, h.dev]⟩

theorem uartLocal_logUart (r : LogRecord) : UartLocal (·.logUart r) := fun s =>
  ⟨⟨s.uart, [], [r]⟩, fun s' h => by simp [State.logUart, State.applyUart, ← h.dev]⟩

theorem uartLocal_emitTx (b : Byte) : UartLocal (·.emitTx b) := fun s =>
  ⟨⟨s.uart, [b], []⟩, fun s' h => by simp [State.emitTx, State.applyUart, ← h.dev]⟩

/-- Every UART instruction is, for a given UART, one local operation and one answer. -/
theorem exec_uart_local {i : Instr} (hi : i.device = .uart) (s : State) :
    ∃ f a, UartLocal f ∧ ∀ s', s.SameUart s' → exec i s' = .next ((f s').withAnswer a) := by
  cases i
  case uartRdCtrl =>
    refine ⟨_, .value (uartCtrlValue s.params.uart s.uart), uartLocal_recomputeUart, fun s' h => ?_⟩
    rw [exec_uartRdCtrl, h.layout, h.dev]
  case uartWrCtrl v =>
    refine ⟨_, .nothing, uartLocal_recomputeUart.comp (uartLocal_setUartCfg (v &&& s.params.uart.wmask)),
      fun s' h => ?_⟩
    rw [exec_uartWrCtrl, h.layout, Function.comp_apply]
  case uartRdInvalid off w =>
    exact ⟨_, _, uartLocal_recomputeUart.comp (uartLocal_logUart _), fun s' _ => exec_uartRdInvalid off w s'⟩
  case uartWrInvalid off w v =>
    exact ⟨_, _, uartLocal_recomputeUart.comp (uartLocal_logUart _), fun s' _ => exec_uartWrInvalid off w v s'⟩
  case uartWrData v =>
    exact ⟨_, _, uartLocal_recomputeUart.comp (uartLocal_emitTx _), fun s' _ => exec_uartWrData v s'⟩
  case uartEvReset =>
    exact ⟨_, _, uartLocal_recomputeUart.comp ((uartLocal_setUartRx _).comp (uartLocal_setUartCfg _)),
      fun s' _ => exec_uartEvReset s'⟩
  case uartQCanReceive =>
    refine ⟨_, .canReceive (!fifoIsFull uartRxCap s.uart.rx), uartLocal_recomputeUart, fun s' h => ?_⟩
    rw [exec_uartQCanReceive, h.dev]
  case uartRdData =>
    cases hq : s.uart.rx with
    | nil =>
      refine ⟨_, .value (dataInfo s.params), uartLocal_recomputeUart.comp
        (uartLocal_logUart (.guestProtocolError .dataReadEmpty)), fun s' h => ?_⟩
      rw [exec_uartRdData_empty (by rw [h.dev, hq]), h.dataInfo, Function.comp_apply]
    | cons b q =>
      refine ⟨_, .value (uartDataWord s.params b), uartLocal_recomputeUart.comp (uartLocal_setUartRx q),
        fun s' h => ?_⟩
      rw [exec_uartRdData_cons (by rw [h.dev, hq]), uartDataWord, h.dataInfo, Function.comp_apply, uartDataWord]
  case uartEvRxDeliver b =>
    by_cases hroom : s.uart.rx.length < uartRxCap
    · refine ⟨_, .nothing, uartLocal_recomputeUart.comp (uartLocal_setUartRx (s.uart.rx ++ [b])), fun s' h => ?_⟩
      rw [exec_uartEvRxDeliver_room b (by rwa [h.dev]), h.dev, Function.comp_apply]
    · refine ⟨_, .nothing, uartLocal_recomputeUart.comp
        ((uartLocal_logUart (.transportOverflow b)).comp (uartLocal_setUartRx s.uart.rx)), fun s' h => ?_⟩
      rw [exec_uartEvRxDeliver_full b (by rw [h.dev]; exact Nat.not_lt.1 hroom), h.dev, Function.comp_apply,
        Function.comp_apply]
  all_goals cases hi

/-- A UART instruction does the same to the UART, and answers the same, in every state that has the same one. -/
theorem exec_uart_effect {i : Instr} (hi : i.device = .uart) (s : State) :
    ∃ e a, ∀ s', s.SameUart s' → exec i s' = .next ((s'.applyUart e).withAnswer a) := by
  obtain ⟨f, a, hf, hexec⟩ := exec_uart_local hi s
  obtain ⟨e, he⟩ := hf s
  exact ⟨e, a, fun s' h => he s' h ▸ hexec s' h⟩

/-! ### Operations of the SPI controller -/

/-- What an operation leaves in the SPI controller and on its downstream bus: the record, what it appends to the history
and to the log, the answers still scheduled and the count of draws. -/
structure SpiEffect where
  dev       : Spi
  xfers     : List SpiXfer
  records   : List LogRecord
  responses : List Byte
  draws     : Nat

/-- The state with the effect on its first SPI controller. -/
def State.applySpi (s : State) (e : SpiEffect) : State :=
  { s with spi := e.dev, spiXfers := s.spiXfers ++ e.xfers, spiLog := s.spiLog ++ e.records,
           spiResponses := e.responses, draws := e.draws }

/-- The first SPI controllers of the two states have the same parameters, record and downstream bus. -/
structure State.SameSpi (s s' : State) : Prop where
  params : s'.params.spiParams = s.params.spiParams
  dev : s'.spi = s.spi
  responses : s'.spiResponses = s.spiResponses
  draws : s'.draws = s.draws

/-- The operation does the same to the SPI controller of every state that has the same one. -/
def SpiLocal (f : State → State) : Prop :=
  ∀ s : State, ∃ e, ∀ s', s.SameSpi s' → f s' = s'.applySpi e

section SameSpi
variable {s s' : State}

theorem State.SameSpi.refl (s : State) : s.SameSpi s := ⟨rfl, rfl, rfl, rfl⟩

theorem State.SameSpi.layout (h : s.SameSpi s') : s'.params.spi = s.params.spi :=
  congrArg SpiParams.layout h.params

theorem State.SameSpi.recompute (h : s.SameSpi s') (c : Spi) : c.recompute s'.params = c.recompute s.params := by
  have hncs : s'.params.ncs = s.params.ncs := congrArg SpiParams.ncs h.params
  simp only [Spi.recompute, Spi.updateCs, csLevels, csSelected, h.layout, hncs]

theorem State.SameSpi.spiResponse (h : s.SameSpi s') (b : Byte) : s'.spiResponse b = s.spiResponse b := by
  rw [State.spiResponse, State.spiResponse, h.responses, h.draws, h.dev]

theorem State.SameSpi.applySpi (h : s.SameSpi s') (e : SpiEffect) : (s.applySpi e).SameSpi (s'.applySpi e) :=
  ⟨h.params, rfl, rfl, rfl⟩

end SameSpi

theorem SpiLocal.comp {g f : State → State} (hg : SpiLocal g) (hf : SpiLocal f) : SpiLocal (g ∘ f) := by
  intro s
  obtain ⟨e, he⟩ := hf s
  obtain ⟨e', he'⟩ := hg (s.applySpi e)
  refine ⟨{ e' with xfers := e.xfers ++ e'.xfers, records := e.records ++ e'.records }, fun s' h => ?_⟩
  rw [Function.comp_apply, he s' h, he' _ (h.applySpi e)]
  simp [State.applySpi]

/-- A write of the record alone, which depends on the record and the parameters, is local. -/
theorem spiLocal_of_record {f : State → State} {g : State → Spi} (hf : ∀ s, f s = { s with spi := g s })
    (hg : ∀ s s' : State, s.SameSpi s' → g s' = g s) : SpiLocal f := fun s =>
  ⟨⟨g s, [], [], s.spiResponses, s.draws⟩, fun s' h => by
    simp [hf, hg s s' h, State.applySpi, ← h.responses, ← h.draws]⟩

theorem spiLocal_recomputeSpi : SpiLocal State.recomputeSpi :=
  spiLocal_of_record (fun _ => rfl) fun s s' h => by rw [h.dev, h.recompute]

theorem spiLocal_setSpiCfg (v : Word) : SpiLocal (·.setSpiCfg v) :=
  spiLocal_of_record (fun _ => rfl) fun s s' h => by rw [h.dev]

theorem spiLocal_setSpiRx (q : List Byte) : SpiLocal (·.setSpiRx q) :=
  spiLocal_of_record (fun _ => rfl) fun s s' h => by rw [h.dev]

theorem spiLocal_setSpiTx (q : List Byte) : SpiLocal (·.setSpiTx q) :=
  spiLocal_of_record (fun _ => rfl) fun s s' h => by rw [h.dev]

theorem spiLocal_logSpi (r : LogRecord) : SpiLocal (·.logSpi r) := fun s =>
  ⟨⟨s.spi, [], [r], s.spiResponses, s.draws⟩, fun s' h => by
    simp [State.logSpi, State.applySpi, ← h.dev, ← h.responses, ← h.draws]⟩

theorem spiLocal_exchange (b : Byte) : SpiLocal (·.exchange b) := by
  intro s
  refine ⟨⟨{ s.spi with rx := (fifoPush spiRxCap s.spi.rx (s.spiResponse b)).1 }, [⟨b, s.spi.cs, s.spiResponse b⟩],
    if s.spi.rx.length < spiRxCap then [] else [.spiRxDrop (s.spiResponse b)], s.spiResponses.tail,
    if s.spiResponses = [] then s.draws + 1 else s.draws⟩, fun s' h => ?_⟩
  simp only [State.exchange_eq, State.applySpi, h.spiResponse, h.dev, h.responses, h.draws]
  split <;> simp

theorem spiLocal_flushBytes (q : List Byte) : SpiLocal (State.flushBytes q) := by
  induction q with
  | nil => exact spiLocal_of_record (g := State.spi) (fun _ => rfl) fun _ _ h => h.dev
  | cons b q ih => exact ih.comp ((spiLocal_exchange b).comp (spiLocal_setSpiTx q))

theorem spiLocal_flush : SpiLocal State.flush := by
  intro s
  obtain ⟨e, he⟩ := spiLocal_flushBytes s.spi.tx s
  exact ⟨e, fun s' h => by rw [State.flush, h.dev, he s' h]⟩

/-- Every SPI instruction is, for a given controller, one local operation and one answer. -/
theorem exec_spi_local {i : Instr} (hi : i.device = .spi) (s : State) :
    ∃ f a, SpiLocal f ∧ ∀ s', s.SameSpi s' → exec i s' = .next ((f s').withAnswer a) := by
  cases i
  case spiRdCtrl =>
    refine ⟨_, .value (spiCtrlValue s.params.spi s.spi), spiLocal_recomputeSpi, fun s' h => ?_⟩
    rw [exec_spiRdCtrl, h.layout, h.dev]
  case spiWrCtrl v =>
    refine ⟨_, .nothing, spiLocal_recomputeSpi.comp (spiLocal_setSpiCfg (v &&& s.params.spi.wmask)), fun s' h => ?_⟩
    rw [exec_spiWrCtrl, h.layout, Function.comp_apply]
  case spiRdInvalid off w =>
    exact ⟨_, _, spiLocal_recomputeSpi.comp (spiLocal_logSpi _), fun s' _ => exec_spiRdInvalid off w s'⟩
  case spiWrInvalid off w v =>
    exact ⟨_, _, spiLocal_recomputeSpi.comp (spiLocal_logSpi _), fun s' _ => exec_spiWrInvalid off w v s'⟩
  case spiEvReset =>
    exact ⟨_, _, spiLocal_recomputeSpi.comp
      ((spiLocal_setSpiTx _).comp ((spiLocal_setSpiRx _).comp (spiLocal_setSpiCfg _))), fun s' _ => exec_spiEvReset s'⟩
  case spiRdData =>
    cases hq : s.spi.rx with
    | nil => exact ⟨_, _, spiLocal_recomputeSpi.comp (spiLocal_logSpi _), fun s' h =>
        exec_spiRdData_empty (by rw [h.dev, hq])⟩
    | cons b q => exact ⟨_, _, spiLocal_recomputeSpi.comp (spiLocal_setSpiRx q), fun s' h =>
        exec_spiRdData_cons (by rw [h.dev, hq])⟩
  case spiWrData v =>
    refine ⟨_, .nothing, spiLocal_recomputeSpi.comp (spiLocal_flush.comp
      (spiLocal_setSpiTx (fifoPush spiTxCap s.spi.tx (dataByte v)).1)), fun s' h => ?_⟩
    rw [exec_spiWrData, h.dev, Function.comp_apply, Function.comp_apply]
  all_goals cases hi

/-- An SPI instruction does the same to the SPI controller, and answers the same, in every state that has the same one. -/
theorem exec_spi_effect {i : Instr} (hi : i.device = .spi) (s : State) :
    ∃ e a, ∀ s', s.SameSpi s' → exec i s' = .next ((s'.applySpi e).withAnswer a) := by
  obtain ⟨f, a, hf, hexec⟩ := exec_spi_local hi s
  obtain ⟨e, he⟩ := hf s
  exact ⟨e, a, fun s' h => he s' h ▸ hexec s' h⟩

/-! ### An event and the devices of the block (R74) -/

/-- Settles O49: an instruction changes the record, the history and the log of its own device, and the answer. -/
theorem anEventLeavesTheOtherDeviceAlone : Obligations.AnEventLeavesTheOtherDeviceAlone := by
  intro i s
  cases hi : i.device with
  | uart =>
    obtain ⟨u', out, log, a, hexec, -⟩ := exec_uart hi s
    exact ⟨_, hexec, fun _ => ⟨rfl, rfl, rfl, rfl, rfl⟩, nofun⟩
  | spi =>
    obtain ⟨c', xfers, log, responses, draws, a, hexec, -⟩ := exec_spi hi s
    exact ⟨_, hexec, nofun, fun _ => ⟨rfl, rfl, rfl⟩⟩

/-- Settles O50: the two states have the same device, so the instruction does the same to it in both. -/
theorem anEventDependsOnItsDeviceAlone : Obligations.AnEventDependsOnItsDeviceAlone := by
  intro i s s' hparams
  constructor
  · intro hi hdev
    obtain ⟨e, a, hexec⟩ := exec_uart_effect hi s
    exact ⟨_, _, hexec s (.refl s), hexec s' ⟨by rw [hparams], hdev.symm⟩, rfl, rfl⟩
  · intro hi hdev hresponses hdraws
    obtain ⟨e, a, hexec⟩ := exec_spi_effect hi s
    exact ⟨_, _, hexec s (.refl s), hexec s' ⟨by rw [hparams], hdev.symm, hresponses.symm, hdraws.symm⟩,
      rfl, rfl, rfl, rfl⟩

end Sys2Proof.Machine
end

section
/-! SUPPORT. An event changes one entry of its device's list of instances, and there it does what it would do in first
place; a further device is appended to that list. -/

namespace Sys2Proof.Machine

/-! ### An event and the instances of a device (R74) -/

section UartAt
variable {s t : State} {inst j : Nat} {u u' : UartInstance}

theorem State.uartAt_of_uarts_eq (h : t.uarts = s.uarts) : t.uartAt j = s.uartAt j := by
  rw [State.uartAt_eq_getElem?, State.uartAt_eq_getElem?, h]

theorem State.uartAt_of_uarts_set_ne (h : t.uarts = s.uarts.set inst u') (hj : j ≠ inst) :
    t.uartAt j = s.uartAt j := by
  rw [State.uartAt_eq_getElem?, State.uartAt_eq_getElem?, h, List.getElem?_set_ne hj.symm]

theorem State.uartAt_of_uarts_set_self (h : t.uarts = s.uarts.set inst u') (hu : s.uartAt inst = some u) :
    t.uartAt inst = some u' := by
  rw [State.uartAt_eq_getElem?] at hu ⊢
  rw [h, List.getElem?_set_self (List.getElem?_eq_some_iff.1 hu).1]

@[simp] theorem State.setUartAt_pending (s : State) (inst : Nat) (u : UartInstance) :
    (s.setUartAt inst u).pending = s.pending := by cases inst <;> rfl

end UartAt

section SpiAt
variable {s t : State} {inst j : Nat} {c c' : SpiInstance}

theorem State.spiAt_of_spis_eq (h : t.spis = s.spis) : t.spiAt j = s.spiAt j := by
  rw [State.spiAt_eq_getElem?, State.spiAt_eq_getElem?, h]

theorem State.spiAt_of_spis_set_ne (h : t.spis = s.spis.set inst c') (hj : j ≠ inst) : t.spiAt j = s.spiAt j := by
  rw [State.spiAt_eq_getElem?, State.spiAt_eq_getElem?, h, List.getElem?_set_ne hj.symm]

theorem State.spiAt_of_spis_set_self (h : t.spis = s.spis.set inst c') (hc : s.spiAt inst = some c) :
    t.spiAt inst = some c' := by
  rw [State.spiAt_eq_getElem?] at hc ⊢
  rw [h, List.getElem?_set_self (List.getElem?_eq_some_iff.1 hc).1]

@[simp] theorem State.setSpiAt_pending (s : State) (inst : Nat) (c : SpiInstance) :
    (s.setSpiAt inst c).pending = s.pending := by cases inst <;> rfl

end SpiAt

/-- An instruction on a UART puts another record, history and log under its number, and changes no other device. -/
theorem execAt_uart_set {i : Instr} (hi : i.device = .uart) {s : State} {inst : Nat} {u : UartInstance}
    (hu : s.uartAt inst = some u) :
    ∃ t u', execAt inst i s = .next t ∧ t.pending = s.pending ∧ t.uarts = s.uarts.set inst u' ∧ t.spis = s.spis ∧
      u'.params = u.params ∧ u'.attached = u.attached := by
  obtain ⟨d, out, log, a, hexec, -⟩ := execAt_uart hi hu
  exact ⟨_, _, hexec, s.setUartAt_pending inst _, s.setUartAt_uarts inst _, s.setUartAt_spis inst _, rfl, rfl⟩

theorem execAt_spi_set {i : Instr} (hi : i.device = .spi) {s : State} {inst : Nat} {c : SpiInstance}
    (hc : s.spiAt inst = some c) :
    ∃ t c', execAt inst i s = .next t ∧ t.pending = s.pending ∧ t.spis = s.spis.set inst c' ∧ t.uarts = s.uarts ∧
      c'.params = c.params ∧ c'.attached = c.attached := by
  obtain ⟨d, xfers, log, responses, draws, a, hexec, -⟩ := execAt_spi hi hc
  exact ⟨_, _, hexec, s.setSpiAt_pending inst _, s.setSpiAt_spis inst _, s.setSpiAt_uarts inst _, rfl, rfl⟩

/-- Settles O55: an instruction changes one entry of its device's list of instances, which keeps its parameters and
stays attached. -/
theorem anEventReachesOnlyItsInstance : Obligations.AnEventReachesOnlyItsInstance := by
  intro i inst s huart hspi
  cases hi : i.device with
  | uart =>
    obtain ⟨u, hu⟩ := State.hasInstance_uart.1 (decide_eq_true (huart hi))
    obtain ⟨t, u', hexec, hpending, huarts, hspis, hparams, hattached⟩ := execAt_uart_set hi hu
    refine ⟨t, hexec, hpending, fun j hj => State.uartAt_of_uarts_set_ne huarts (hj.resolve_left nofun),
      fun j _ => State.spiAt_of_spis_eq hspis, ?_, congrArg _ (State.spiAt_of_spis_eq hspis)⟩
    rw [State.uartAt_of_uarts_set_self huarts hu, hu, Option.map_some, Option.map_some, hparams, hattached]
  | spi =>
    obtain ⟨c, hc⟩ := State.hasInstance_spi.1 (decide_eq_true (hspi hi))
    obtain ⟨t, c', hexec, hpending, hspis, huarts, hparams, hattached⟩ := execAt_spi_set hi hc
    refine ⟨t, hexec, hpending, fun j _ => State.uartAt_of_uarts_eq huarts,
      fun j hj => State.spiAt_of_spis_set_ne hspis (hj.resolve_left nofun),
      congrArg _ (State.uartAt_of_uarts_eq huarts), ?_⟩
    rw [State.spiAt_of_spis_set_self hspis hc, hc, Option.map_some, Option.map_some, hparams, hattached]

/-- The UART with an effect on it. -/
def UartInstance.apply (u : UartInstance) (e : UartEffect) : UartInstance :=
  { u with dev := e.dev, out := u.out ++ e.sent, log := u.log ++ e.records }

/-- The SPI controller with an effect on it. -/
def SpiInstance.apply (c : SpiInstance) (e : SpiEffect) : SpiInstance :=
  { c with dev := e.dev, xfers := c.xfers ++ e.xfers, log := c.log ++ e.records, responses := e.responses }

/-- Where a UART instruction has an effect on the UART in first place, it has that effect where the UART stands. -/
theorem execAt_applyUart {i : Instr} (hi : i.device = .uart) {s : State} {inst : Nat} {u : UartInstance}
    (hu : s.uartAt inst = some u) {e : UartEffect} {a : Answer}
    (hexec : exec i (s.focus .uart inst) = .next (((s.focus .uart inst).applyUart e).withAnswer a)) :
    execAt inst i s = .next ((s.setUartAt inst (u.apply e)).withAnswer a) := by
  have hfirst := State.focus_firstUart hu
  have hout : (s.focus .uart inst).uartOut = u.out := congrArg UartInstance.out hfirst
  have hlog : (s.focus .uart inst).uartLog = u.log := congrArg UartInstance.log hfirst
  rw [execAt_next (by rw [hi]; exact hexec), hi, State.applyUart, State.focus_uart_back hu, hout, hlog]
  rfl

theorem execAt_applySpi {i : Instr} (hi : i.device = .spi) {s : State} {inst : Nat} {c : SpiInstance}
    (hc : s.spiAt inst = some c) {e : SpiEffect} {a : Answer}
    (hexec : exec i (s.focus .spi inst) = .next (((s.focus .spi inst).applySpi e).withAnswer a)) :
    execAt inst i s = .next (State.withAnswer { s.setSpiAt inst (c.apply e) with draws := e.draws } a) := by
  have hfirst := State.focus_firstSpi hc
  have hxfers : (s.focus .spi inst).spiXfers = c.xfers := congrArg SpiInstance.xfers hfirst
  have hlog : (s.focus .spi inst).spiLog = c.log := congrArg SpiInstance.log hfirst
  rw [execAt_next (by rw [hi]; exact hexec), hi, State.applySpi, State.focus_spi_back hc, hxfers, hlog]
  rfl

/-- A state with a UART brought into first place has the same one as a state in which it was put there. -/
theorem State.sameUart_focus_putUart {s : State} {inst : Nat} {u : UartInstance} (hu : s.uartAt inst = some u)
    (s' : State) : (s'.putUart u).SameUart (s.focus .uart inst) :=
  ⟨congrArg UartInstance.params (State.focus_firstUart hu), congrArg UartInstance.dev (State.focus_firstUart hu)⟩

theorem State.sameSpi_focus_putSpi {s s' : State} {inst : Nat} {c : SpiInstance} (hc : s.spiAt inst = some c)
    (hdraws : s.draws = s'.draws) : (s'.putSpi c).SameSpi (s.focus .spi inst) :=
  ⟨congrArg SpiInstance.params (State.focus_firstSpi hc), congrArg SpiInstance.dev (State.focus_firstSpi hc),
    congrArg SpiInstance.responses (State.focus_firstSpi hc), (s.focus_draws .spi inst).trans hdraws⟩

/-- Settles O56: what stands in first place is the same device in both states, so the instruction has the same effect on
it, and bringing it back stores that under its number. -/
theorem everyInstanceBehavesAsTheFirst : Obligations.EveryInstanceBehavesAsTheFirst := by
  intro i inst s s'
  constructor
  · intro u hi hu
    obtain ⟨e, a, hexec⟩ := exec_uart_effect hi (s'.putUart u)
    have hat := execAt_applyUart hi hu (hexec _ (State.sameUart_focus_putUart hu s'))
    exact ⟨_, _, hat, hexec _ (.refl _), State.uartAt_of_uarts_set_self (s.setUartAt_uarts inst _) hu, rfl⟩
  · intro c hi hc hdraws
    obtain ⟨e, a, hexec⟩ := exec_spi_effect hi (s'.putSpi c)
    have hat := execAt_applySpi hi hc (hexec _ (State.sameSpi_focus_putSpi hc hdraws))
    exact ⟨_, _, hat, hexec _ (.refl _), State.spiAt_of_spis_set_self (s.setSpiAt_spis inst _) hc, rfl, rfl⟩

/-! ### Attaching a further device (R44, R303) -/

theorem State.attachUart_uarts (s : State) (p : UartParams) :
    (s.attachUart p).uarts = s.uarts ++ [⟨p, true, Uart.atAttach, [], []⟩] := rfl

/-- A further UART keeps the invariant where its window fits. -/
theorem State.Inv.attachUart {s : State} (hs : s.Inv) {p : UartParams} (hwf : (s.attachUart p).configWf = true) :
    (s.attachUart p).Inv := by
  obtain ⟨-, huarts, hspis⟩ := State.inv_iff.1 hs
  refine State.inv_iff.2 ⟨hwf, ?_, hspis⟩
  rw [State.attachUart_uarts, List.forall_mem_append, List.forall_mem_singleton]
  exact ⟨huarts, Uart.atAttach_ok _⟩

/-- An SPI controller with these parameters, right after its attach. -/
def SpiInstance.atAttach (p : SpiParams) : SpiInstance :=
  { params := p, attached := true, dev := Spi.atAttach p.ncs, xfers := [], log := [], responses := [] }

/-- The state with a further SPI controller. -/
def State.addSpi (s : State) (c : SpiInstance) : State := { s with moreSpis := s.moreSpis ++ [c] }

theorem State.addSpi_spis (s : State) (c : SpiInstance) : (s.addSpi c).spis = s.spis ++ [c] := rfl

theorem State.attachSpi_of_pos (s : State) (p : SpiParams) {n : Int} (hn : 1 ≤ n.toNat) :
    s.attachSpi p n = .ok (s.addSpi (.atAttach { p with ncs := ⟨n.toNat, hn⟩ })) := dif_pos hn

theorem State.attachSpi_of_nonpos (s : State) (p : SpiParams) {n : Int} (hn : n ≤ 0) :
    s.attachSpi p n = .error .noChipSelectLine := dif_neg (by omega)

/-- A further SPI controller right after its attach keeps the invariant where its window fits. -/
theorem State.Inv.addSpi {s : State} (hs : s.Inv) {p : SpiParams} (hwf : (s.addSpi (.atAttach p)).configWf = true) :
    (s.addSpi (.atAttach p)).Inv := by
  obtain ⟨-, huarts, hspis⟩ := State.inv_iff.1 hs
  refine State.inv_iff.2 ⟨hwf, huarts, ?_⟩
  rw [State.addSpi_spis, List.forall_mem_append, List.forall_mem_singleton]
  exact ⟨hspis, Spi.atAttach_ok (s.params.withSpi p)⟩

/-- Settles O57: a further device, as at attach, is appended to those there are. -/
theorem furtherInstancesAttachInReset : Obligations.FurtherInstancesAttachInReset := by
  refine ⟨fun s p => ⟨?_, fun j hj => ?_, fun hs => hs.attachUart⟩, fun s p n => s.attachSpi_of_nonpos p,
    fun s p n hn => ?_⟩
  · exact List.getElem?_concat_length
  · rw [State.uartAt_eq_getElem?, State.uartAt_eq_getElem?, State.attachUart_uarts]
    exact List.getElem?_append_left (Nat.lt_succ_of_le hj)
  · refine ⟨_, _, s.attachSpi_of_pos p (by omega), List.getElem?_concat_length, Int.toNat_of_nonneg hn.le, rfl, rfl,
      rfl, rfl, rfl, rfl, fun j hj => ?_, fun hs => hs.addSpi⟩
    rw [State.spiAt_eq_getElem?, State.spiAt_eq_getElem?, State.addSpi_spis]
    exact List.getElem?_append_left (Nat.lt_succ_of_le hj)

end Sys2Proof.Machine
end

section
/-! SUPPORT. What a step does with each kind of request at the front: an event, a guest access by physical address, an
atomic access and an instruction fetch. -/

namespace Sys2Proof.Machine

/-! ### A step on an event at the front (R68, R74) -/

theorem step_of_run {s s' : State} {r : Request} {rest : List Request} {inst : Nat} {i : Instr}
    (hp : s.pending = r :: rest) (hf : fetchRequest s r rest = .run inst i s') : step s = execAt inst i s' := by
  simp [step, fetch_cons hp, hf]

theorem step_of_refused {s : State} {r : Request} {rest : List Request} {e : Refusal}
    (hp : s.pending = r :: rest) (hf : fetchRequest s r rest = .refused e) : step s = .refused e := by
  simp [step, fetch_cons hp, hf]

/-- Whether the device of that number is attached, if there is one. -/
def State.attachedAt (s : State) : Device → Nat → Option Bool
  | .uart, inst => (s.uartAt inst).map (·.attached)
  | .spi, inst => (s.spiAt inst).map (·.attached)

theorem State.isAttached_iff {s : State} {dev : Device} {inst : Nat} :
    s.isAttached dev inst = true ↔ s.attachedAt dev inst = some true := by
  cases dev
  · rw [State.isAttached_uart, State.attachedAt, Option.map_eq_some_iff]
  · rw [State.isAttached_spi, State.attachedAt, Option.map_eq_some_iff]

theorem State.hasInstance_eq_isSome {s : State} {dev : Device} {inst : Nat} :
    s.hasInstance dev inst = (s.attachedAt dev inst).isSome := by
  cases dev
  · rw [Bool.eq_iff_iff, State.hasInstance_uart, State.attachedAt, Option.isSome_map, Option.isSome_iff_exists]
  · rw [Bool.eq_iff_iff, State.hasInstance_spi, State.attachedAt, Option.isSome_map, Option.isSome_iff_exists]

/-- An event for what is not attached is refused, by a name for each reason. -/
theorem step_event_of_not_attached {s : State} {dev : Device} {inst : Nat} {bytes : List Byte} {rest : List Request}
    (hp : s.pending = .event dev inst bytes :: rest) (h : s.attachedAt dev inst ≠ some true) :
    step s = .refused (if (s.attachedAt dev inst).isSome then .detached else .noSuchInstance) := by
  have ha : s.isAttached dev inst = false := Bool.eq_false_iff.2 fun ha => h (State.isAttached_iff.1 ha)
  rw [step_of_refused hp (fetchRequest_absent bytes rest ha).1, State.absence, State.hasInstance_eq_isSome]

/-- Settles O6: an event of an attached device is fetched as its instruction, any other is refused. -/
theorem stepRunsTheDecodedEvent : Obligations.StepRunsTheDecodedEvent := by
  intro s dev inst bytes tail rest i hp attached
  have hattached : attached = s.attachedAt dev inst := by cases dev <;> rfl
  rw [hattached]
  refine ⟨fun ha hd => ?_, fun ha => ?_, fun ha => ?_⟩
  · have hstep := step_of_run hp (fetchRequest_event rest (State.isAttached_iff.2 ha) hd)
    refine ⟨hstep, ?_⟩
    rintro rfl
    rw [hstep, execAt_zero]
  · rw [step_event_of_not_attached hp (by simp [ha]), ha]
    rfl
  · rw [step_event_of_not_attached hp (by simp [ha]), ha]
    rfl

/-! ### Accesses by physical address (R61, R70, R71) -/

/-- The bytes of a guest read in the window decode to that read. -/
theorem decode_readEventBytes {regionSize : Nat} {off : Offset} (dev : Device) (w : Width)
    (ho : inWindow regionSize off = true) :
    decode regionSize dev (readEventBytes off w) = .ok (decodeRead dev off w, []) := by
  have h := decode_bytesOfWord regionSize dev (mkDescriptor 0#2 w off) []
  rw [List.append_nil] at h
  rw [readEventBytes, h, decodeDescriptor_mkDescriptor, payloadBytes_mkDescriptor]
  simp [ho]

theorem decode_writeEventBytes {regionSize : Nat} {off : Offset} (dev : Device) (w : Width) (v : Word)
    (ho : inWindow regionSize off = true) :
    decode regionSize dev (writeEventBytes off w v) = .ok (decodeWrite dev off w v, []) := by
  have hv : wordOfBytes ((bytesOfWord v).take 4) = v := by
    rw [List.take_of_length_le (bytesOfWord_length v).le, wordOfBytes_bytesOfWord]
  rw [writeEventBytes, decode_bytesOfWord, decodeDescriptor_mkDescriptor, payloadBytes_mkDescriptor]
  simp [ho, hv]

section BusAccess
variable {s : State} {rest : List Request} {addr inst : Nat} {dev : Device} {off : Offset} {w : Width}

theorem step_busRead (hp : s.pending = .busRead addr w :: rest) (hr : route s addr = some (dev, inst, off))
    (ho : inWindow s.params.regionSize off = true) :
    step s = execAt inst (decodeRead dev off w) { s with pending := rest } :=
  step_of_run hp (by simp [fetchRequest, requestAsked, hr, decode_readEventBytes dev w ho])

theorem step_busWrite {v : Word} (hp : s.pending = .busWrite addr w v :: rest)
    (hr : route s addr = some (dev, inst, off)) (ho : inWindow s.params.regionSize off = true) :
    step s = execAt inst (decodeWrite dev off w v) { s with pending := rest } :=
  step_of_run hp (by simp [fetchRequest, requestAsked, hr, decode_writeEventBytes dev w v ho])

end BusAccess

/-- An offset that FIELD can spell is spelled once (R80). -/
theorem ofNat_offset_eq_iff {off k : Nat} (ho : off < 2 ^ 24) (hk : k < 2 ^ 24) :
    BitVec.ofNat 24 off = BitVec.ofNat 24 k ↔ off = k := by
  rw [← BitVec.toNat_inj, BitVec.toNat_ofNat, BitVec.toNat_ofNat, Nat.mod_eq_of_lt ho, Nat.mod_eq_of_lt hk]

/-- Settles O7: the address is routed to its device at its offset, and the access's bytes decode to the row of that
offset and width. -/
theorem busAccessReachesItsRegister : Obligations.BusAccessReachesItsRegister := by
  intro s rest inst off w v hconfig hoff o s'
  obtain ⟨hwf, -⟩ := State.configWf_iff.1 hconfig
  obtain ⟨-, -, -, hregion, -⟩ := Params.wf_iff.1 hwf
  have hlt : off < 2 ^ 24 := by omega
  have hctrl : BitVec.ofNat 24 off = 0#24 ↔ off = 0 := ofNat_offset_eq_iff hlt (by decide)
  have hdata : BitVec.ofNat 24 off = 4#24 ↔ off = 4 := ofNat_offset_eq_iff hlt (by decide)
  have hin : inWindow s.params.regionSize o = true := by
    rw [inWindow, BitVec.toNat_ofNat, Nat.mod_eq_of_lt hlt]
    exact decide_eq_true hoff
  refine ⟨fun u hu ha => ?_, fun c hc ha => ?_⟩
  · have hroute := route_uart hconfig hu ha hoff
    exact ⟨fun hp => by simp only [step_busRead hp hroute hin, decodeRead, hctrl, hdata, o, s'],
      fun hp => by simp only [step_busWrite hp hroute hin, decodeWrite, hctrl, hdata, o, s']⟩
  · have hroute := route_spi hconfig hc ha hoff
    exact ⟨fun hp => by simp only [step_busRead hp hroute hin, decodeRead, hctrl, hdata, o, s'],
      fun hp => by simp only [step_busWrite hp hroute hin, decodeWrite, hctrl, hdata, o, s']⟩

/-- Settles O8: an address is routed nowhere exactly when it is outside every window. -/
theorem stepRefusesAtomicsFetchesAndOutsideAccesses : Obligations.StepRefusesAtomicsFetchesAndOutsideAccesses := by
  intro s rest addr w v inside
  have hroute : route s addr = none ↔ ¬ inside := by
    simp only [inside, route_eq_none, some_mem_uartWindows, some_mem_spiWindows, not_exists, not_and]
  refine ⟨fun hin hp => ?_, fun hin hp => ?_, fun hout hp => ?_⟩
  · obtain ⟨x, hx⟩ := Option.ne_none_iff_exists'.1 fun h => hroute.1 h hin
    exact step_of_refused hp (fetchRequest_error rest (by simp [requestAsked, hx]))
  · obtain ⟨x, hx⟩ := Option.ne_none_iff_exists'.1 fun h => hroute.1 h hin
    exact step_of_refused hp (fetchRequest_error rest (by simp [requestAsked, hx]))
  · have hnone := hroute.2 hout
    rcases hp with hp | hp | hp | hp <;>
      exact step_of_refused hp (fetchRequest_error rest (by simp [requestAsked, hnone]))

end Sys2Proof.Machine
end

section
/-! SUPPORT. The encoding of events: what decodes is an encoding and the other way round. -/

namespace Sys2Proof.Machine

/-! ### A descriptor given by its fields (R80) -/

theorem exists_mkDescriptor (d : Word) : ∃ k w f, d = mkDescriptor k w f :=
  ⟨kindOf d, widthOf d, fieldOf d, (mkDescriptor_eta d).symm⟩

section GuestAccess
variable {regionSize : Nat} (dev : Device) {off : Offset} (w : Width) (v : Word)

theorem decodeDescriptor_read (h : inWindow regionSize off = true) :
    decodeDescriptor regionSize dev (mkDescriptor 0#2 w off) v = .ok (decodeRead dev off w) := by
  simp [decodeDescriptor_mkDescriptor, h]

theorem decodeDescriptor_write (h : inWindow regionSize off = true) :
    decodeDescriptor regionSize dev (mkDescriptor 1#2 w off) v = .ok (decodeWrite dev off w v) := by
  simp [decodeDescriptor_mkDescriptor, h]

end GuestAccess

theorem decodeDescriptor_hostEvent (regionSize : Nat) (dev : Device) (evt : Offset) (v : Word) :
    decodeDescriptor regionSize dev (mkDescriptor 2#2 0#6 evt) v = decodeHostEvent dev evt (v.setWidth 8) := by
  simp [decodeDescriptor_mkDescriptor]

/-- What a descriptor can decode to: a guest read or a guest write in the window, or a host event. -/
theorem decodeDescriptor_eq_ok {regionSize : Nat} {dev : Device} {k : BitVec 2} {w : Width} {f : Offset} {v : Word}
    {i : Instr} (h : decodeDescriptor regionSize dev (mkDescriptor k w f) v = .ok i) :
    (k = 0#2 ∧ inWindow regionSize f = true ∧ i = decodeRead dev f w) ∨
    (k = 1#2 ∧ inWindow regionSize f = true ∧ i = decodeWrite dev f w v) ∨
    (k = 2#2 ∧ w = 0#6 ∧ decodeHostEvent dev f (v.setWidth 8) = .ok i) := by
  rw [decodeDescriptor_mkDescriptor] at h
  split at h
  · cases h
  · split at h
    · split at h
      · exact .inr (.inr ⟨by assumption, by assumption, h⟩)
      · cases h
    · split at h
      · split at h <;> cases h
        · exact .inl ⟨by assumption, by assumption, rfl⟩
        · exact .inr (.inl ⟨by bv_omega, by assumption, rfl⟩)
      · cases h

/-! ### What an accepted descriptor spells (R86, R87) -/

theorem selectsRegister_eq_false {off : Offset} {w : Width} :
    selectsRegister off w = false ↔ ¬(w = 4#6 ∧ off = 0#24) ∧ ¬(w = 4#6 ∧ off = 4#24) := by
  simp only [selectsRegister, Bool.and_eq_false_imp, Bool.or_eq_false_iff, beq_iff_eq, beq_eq_false_iff_ne]
  tauto

theorem decodeRead_invalid {off : Offset} {w : Width} (h : selectsRegister off w = false) :
    decodeRead .uart off w = .uartRdInvalid off w ∧ decodeRead .spi off w = .spiRdInvalid off w := by
  obtain ⟨hctrl, hdata⟩ := selectsRegister_eq_false.1 h
  simp [decodeRead, hctrl, hdata]

theorem decodeWrite_invalid {off : Offset} {w : Width} (v : Word) (h : selectsRegister off w = false) :
    decodeWrite .uart off w v = .uartWrInvalid off w v ∧ decodeWrite .spi off w v = .spiWrInvalid off w v := by
  obtain ⟨hctrl, hdata⟩ := selectsRegister_eq_false.1 h
  simp [decodeWrite, hctrl, hdata]

/-- The instruction is well-formed, and its encoding has this descriptor and this payload. -/
structure EncodedAs (regionSize : Nat) (i : Instr) (d : Word) (payload : List Byte) : Prop where
  descriptor : i.descriptor = d
  payload : i.payload = payload
  wf : i.wf regionSize = true

theorem EncodedAs.encode_eq {regionSize : Nat} {i : Instr} {d : Word} {payload : List Byte}
    (h : EncodedAs regionSize i d payload) : encode i = bytesOfWord d ++ payload := by
  rw [encode, h.descriptor, h.payload]

theorem decodeRead_encodedAs {regionSize : Nat} (dev : Device) {off : Offset} (w : Width)
    (h : inWindow regionSize off = true) :
    EncodedAs regionSize (decodeRead dev off w) (mkDescriptor 0#2 w off) [] := by
  cases hs : selectsRegister off w with
  | false =>
    cases dev
    · rw [(decodeRead_invalid hs).1]
      exact ⟨rfl, rfl, by simp [Instr.wf, h, hs]⟩
    · rw [(decodeRead_invalid hs).2]
      exact ⟨rfl, rfl, by simp [Instr.wf, h, hs]⟩
  | true =>
    simp only [selectsRegister, Bool.and_eq_true, Bool.or_eq_true, beq_iff_eq] at hs
    obtain ⟨rfl, rfl | rfl⟩ := hs <;> cases dev <;> exact ⟨rfl, rfl, h⟩

theorem decodeWrite_encodedAs {regionSize : Nat} (dev : Device) {off : Offset} (w : Width) (v : Word)
    (h : inWindow regionSize off = true) :
    EncodedAs regionSize (decodeWrite dev off w v) (mkDescriptor 1#2 w off) (bytesOfWord v) := by
  cases hs : selectsRegister off w with
  | false =>
    cases dev
    · rw [(decodeWrite_invalid v hs).1]
      exact ⟨rfl, rfl, by simp [Instr.wf, h, hs]⟩
    · rw [(decodeWrite_invalid v hs).2]
      exact ⟨rfl, rfl, by simp [Instr.wf, h, hs]⟩
  | true =>
    simp only [selectsRegister, Bool.and_eq_true, Bool.or_eq_true, beq_iff_eq] at hs
    obtain ⟨rfl, rfl | rfl⟩ := hs <;> cases dev <;> exact ⟨rfl, rfl, h⟩

/-- A host event that a device has, by its id (R83, R88). -/
theorem decodeHostEvent_eq_ok {dev : Device} {evt : Offset} {b : Byte} {i : Instr}
    (h : decodeHostEvent dev evt b = .ok i) :
    (evt = 0#24 ∧ (i = .uartEvReset ∨ i = .spiEvReset)) ∨ (evt = 1#24 ∧ i = .uartEvRxDeliver b) ∨
      (evt = 2#24 ∧ i = .uartQCanReceive) := by
  unfold decodeHostEvent at h
  split at h
  · cases dev <;> cases h
    · exact .inl ⟨by assumption, .inl rfl⟩
    · exact .inl ⟨by assumption, .inr rfl⟩
  · split at h
    · cases dev <;> cases h
      exact .inr (.inl ⟨by assumption, rfl⟩)
    · split at h
      · cases dev <;> cases h
        exact .inr (.inr ⟨by assumption, rfl⟩)
      · cases h

/-- The payload of a host event: a byte after a delivery (R89). -/
def hostEventPayload (evt : Offset) (b : Byte) : List Byte := if evt = 1#24 then [b] else []

theorem decodeHostEvent_encodedAs (regionSize : Nat) {dev : Device} {evt : Offset} {b : Byte} {i : Instr}
    (h : decodeHostEvent dev evt b = .ok i) :
    EncodedAs regionSize i (mkDescriptor 2#2 0#6 evt) (hostEventPayload evt b) := by
  rcases decodeHostEvent_eq_ok h with ⟨rfl, rfl | rfl⟩ | ⟨rfl, rfl⟩ | ⟨rfl, rfl⟩ <;> exact ⟨rfl, rfl, rfl⟩

/-- A host event reads no payload but its own. -/
theorem decodeHostEvent_hostEventPayload (dev : Device) (evt : Offset) (b : Byte) :
    decodeHostEvent dev evt ((wordOfBytes (hostEventPayload evt b)).setWidth 8) = decodeHostEvent dev evt b := by
  by_cases h : evt = 1#24
  · simp [hostEventPayload, h]
  · simp [decodeHostEvent, h]

theorem hostEventPayload_of_length {evt : Offset} {payload : List Byte}
    (h : payload.length = if evt = 1#24 then 1 else 0) :
    hostEventPayload evt ((wordOfBytes payload).setWidth 8) = payload := by
  split at h
  case isTrue he =>
    obtain ⟨b, rfl⟩ := List.length_eq_one_iff.1 h
    simp [hostEventPayload, he]
  case isFalse he => rw [hostEventPayload, if_neg he, List.length_eq_zero_iff.1 h]

/-- An accepted descriptor with its payload is the encoding of the instruction it decodes to. -/
theorem encodedAs_of_decodeDescriptor {regionSize : Nat} {dev : Device} {d : Word} {payload : List Byte} {i : Instr}
    (hlen : payload.length = payloadBytes d)
    (h : decodeDescriptor regionSize dev d (wordOfBytes payload) = .ok i) : EncodedAs regionSize i d payload := by
  obtain ⟨k, w, f, rfl⟩ := exists_mkDescriptor d
  rw [payloadBytes_mkDescriptor] at hlen
  rcases decodeDescriptor_eq_ok h with ⟨rfl, hin, rfl⟩ | ⟨rfl, hin, rfl⟩ | ⟨rfl, rfl, hevt⟩
  · obtain rfl : payload = [] := List.length_eq_zero_iff.1 hlen
    exact decodeRead_encodedAs dev w hin
  · have hbytes : bytesOfWord (wordOfBytes payload) = payload := by
      match payload, hlen with
      | [b0, b1, b2, b3], _ => exact bytesOfWord_wordOfBytes b0 b1 b2 b3
    have henc := decodeWrite_encodedAs dev w (wordOfBytes payload) hin
    rwa [hbytes] at henc
  · have henc := decodeHostEvent_encodedAs regionSize hevt
    rwa [hostEventPayload_of_length (by simpa using hlen)] at henc

theorem inWindow_and_not_selects {regionSize : Nat} {off : Offset} {w : Width} :
    (inWindow regionSize off && !selectsRegister off w) = true ↔
      inWindow regionSize off = true ∧ selectsRegister off w = false := by
  rw [Bool.and_eq_true, Bool.not_eq_true']

/-- A well-formed instruction is a guest read or a guest write in the window, or a host event, of its device. -/
theorem wf_cases {regionSize : Nat} {dev : Device} {i : Instr} (hdev : i.device = dev) (h : i.wf regionSize = true) :
    (∃ off w, inWindow regionSize off = true ∧ i = decodeRead dev off w) ∨
    (∃ off w v, inWindow regionSize off = true ∧ i = decodeWrite dev off w v) ∨
    (∃ evt b, decodeHostEvent dev evt b = .ok i) := by
  subst hdev
  cases i
  case uartRdCtrl => exact .inl ⟨0#24, 4#6, h, rfl⟩
  case spiRdCtrl => exact .inl ⟨0#24, 4#6, h, rfl⟩
  case uartRdData => exact .inl ⟨4#24, 4#6, h, rfl⟩
  case spiRdData => exact .inl ⟨4#24, 4#6, h, rfl⟩
  case uartWrCtrl v => exact .inr (.inl ⟨0#24, 4#6, v, h, rfl⟩)
  case spiWrCtrl v => exact .inr (.inl ⟨0#24, 4#6, v, h, rfl⟩)
  case uartWrData v => exact .inr (.inl ⟨4#24, 4#6, v, h, rfl⟩)
  case spiWrData v => exact .inr (.inl ⟨4#24, 4#6, v, h, rfl⟩)
  case uartRdInvalid off w =>
    obtain ⟨hin, hs⟩ := inWindow_and_not_selects.1 h
    exact .inl ⟨off, w, hin, (decodeRead_invalid hs).1.symm⟩
  case spiRdInvalid off w =>
    obtain ⟨hin, hs⟩ := inWindow_and_not_selects.1 h
    exact .inl ⟨off, w, hin, (decodeRead_invalid hs).2.symm⟩
  case uartWrInvalid off w v =>
    obtain ⟨hin, hs⟩ := inWindow_and_not_selects.1 h
    exact .inr (.inl ⟨off, w, v, hin, (decodeWrite_invalid v hs).1.symm⟩)
  case spiWrInvalid off w v =>
    obtain ⟨hin, hs⟩ := inWindow_and_not_selects.1 h
    exact .inr (.inl ⟨off, w, v, hin, (decodeWrite_invalid v hs).2.symm⟩)
  case uartEvReset => exact .inr (.inr ⟨0#24, 0#8, rfl⟩)
  case spiEvReset => exact .inr (.inr ⟨0#24, 0#8, rfl⟩)
  case uartEvRxDeliver b => exact .inr (.inr ⟨1#24, b, rfl⟩)
  case uartQCanReceive => exact .inr (.inr ⟨2#24, 0#8, rfl⟩)

/-- The descriptor of a well-formed instruction, with its payload, decodes to it on its device. -/
theorem decodeDescriptor_descriptor {regionSize : Nat} {dev : Device} {i : Instr} (hdev : i.device = dev)
    (h : i.wf regionSize = true) :
    decodeDescriptor regionSize dev i.descriptor (wordOfBytes i.payload) = .ok i := by
  rcases wf_cases hdev h with ⟨off, w, hin, rfl⟩ | ⟨off, w, v, hin, rfl⟩ | ⟨evt, b, hevt⟩
  · rw [(decodeRead_encodedAs dev w hin).descriptor, decodeDescriptor_read dev w _ hin]
  · have henc := decodeWrite_encodedAs dev w v hin
    rw [henc.descriptor, henc.payload, wordOfBytes_bytesOfWord, decodeDescriptor_write dev w v hin]
  · have henc := decodeHostEvent_encodedAs regionSize hevt
    rw [henc.descriptor, henc.payload, decodeDescriptor_hostEvent, decodeHostEvent_hostEventPayload, hevt]

/-! ### Decoding and encoding are inverse -/

/-- Bytes that hold the payload their descriptor announces decode as the descriptor does. -/
theorem decode_of_payload_present {regionSize : Nat} {dev : Device} {d : Word} {more : List Byte}
    (h : payloadBytes d ≤ more.length) :
    decode regionSize dev (bytesOfWord d ++ more) =
      (decodeDescriptor regionSize dev d (wordOfBytes (more.take (payloadBytes d)))).map
        fun i => (i, more.drop (payloadBytes d)) := by
  rw [decode_bytesOfWord]
  cases decodeDescriptor regionSize dev d (wordOfBytes (more.take (payloadBytes d))) with
  | error e => rfl
  | ok i => exact if_neg (Nat.not_lt.2 h)

/-- Bytes decode exactly when they are an accepted descriptor, its payload and the rest. -/
theorem decode_eq_ok_iff {regionSize : Nat} {dev : Device} {bytes rest : List Byte} {i : Instr} :
    decode regionSize dev bytes = .ok (i, rest) ↔
      ∃ d payload, bytes = bytesOfWord d ++ (payload ++ rest) ∧ payload.length = payloadBytes d ∧
        decodeDescriptor regionSize dev d (wordOfBytes payload) = .ok i := by
  constructor
  · intro h
    obtain ⟨d, more, rfl⟩ := decode_ok_bytes h
    rw [decode_bytesOfWord] at h
    split at h
    · cases h
    · split at h <;> cases h
      refine ⟨d, more.take (payloadBytes d), by rw [List.take_append_drop], ?_, by assumption⟩
      exact List.length_take_of_le (by omega)
  · rintro ⟨d, payload, rfl, hlen, h⟩
    rw [decode_of_payload_present (by simp [hlen]), List.take_left' hlen, List.drop_left' hlen, h]
    rfl

theorem payload_length (i : Instr) : i.payload.length = payloadBytes i.descriptor := by
  cases i
  case uartRdCtrl => exact Laws.PayloadLength.uartRdCtrl
  case uartRdData => exact Laws.PayloadLength.uartRdData
  case uartWrCtrl v => exact Laws.PayloadLength.uartWrCtrl v
  case uartWrData v => exact Laws.PayloadLength.uartWrData v
  case uartRdInvalid off w => exact Laws.PayloadLength.uartRdInvalid off w
  case uartWrInvalid off w v => exact Laws.PayloadLength.uartWrInvalid off w v
  case uartEvReset => exact Laws.PayloadLength.uartEvReset
  case uartEvRxDeliver b => exact Laws.PayloadLength.uartEvRxDeliver b
  case uartQCanReceive => exact Laws.PayloadLength.uartQCanReceive
  case spiRdCtrl => exact Laws.PayloadLength.spiRdCtrl
  case spiRdData => exact Laws.PayloadLength.spiRdData
  case spiWrCtrl v => exact Laws.PayloadLength.spiWrCtrl v
  case spiWrData v => exact Laws.PayloadLength.spiWrData v
  case spiRdInvalid off w => exact Laws.PayloadLength.spiRdInvalid off w
  case spiWrInvalid off w v => exact Laws.PayloadLength.spiWrInvalid off w v
  case spiEvReset => exact Laws.PayloadLength.spiEvReset

/-- Settles O1: the descriptor decodes to the instruction, and the payload has the length it announces. -/
theorem decodeOfEncodeGivesTheInstruction : Obligations.DecodeOfEncodeGivesTheInstruction := by
  intro regionSize i rest hwf
  exact decode_eq_ok_iff.2 ⟨i.descriptor, i.payload, List.append_assoc .., payload_length i,
    decodeDescriptor_descriptor rfl hwf⟩

/-- Settles O2: an accepted descriptor and its payload are the encoding of what they decode to. -/
theorem decodedBytesAreAnEncoding : Obligations.DecodedBytesAreAnEncoding := by
  intro regionSize dev bytes rest i h
  obtain ⟨d, payload, rfl, hlen, hd⟩ := decode_eq_ok_iff.1 h
  have henc := encodedAs_of_decodeDescriptor hlen hd
  exact ⟨by rw [henc.encode_eq, List.append_assoc], decode_device h, henc.wf⟩

/-- Settles O5: each word is the encoding of its instruction, written out. -/
theorem writtenOutWordsDecode : Obligations.WrittenOutWordsDecode := by
  have h := decodeOfEncodeGivesTheInstruction
  exact ⟨h 8 .uartRdCtrl [] rfl, h 8 .uartRdData [] rfl, h 8 (.spiWrCtrl 0x00100051#32) [] rfl,
    h 8 (.spiWrData 0x12345678#32) [] rfl, h 8 (.uartRdInvalid 0#24 1#6) [] rfl,
    h 8 (.spiWrInvalid 0#24 2#6 0xFFFF#32) [] rfl, h 16 (.uartRdInvalid 8#24 4#6) [] rfl,
    h 8 .spiEvReset [] rfl, h 8 (.uartEvRxDeliver 0x41#8) [] rfl⟩

end Sys2Proof.Machine
end

section
/-! SUPPORT. The row of the event map that a descriptor selects, and the descriptors that the table of R88 refuses, both
read off the three fields of the descriptor. -/

namespace Sys2Proof.Machine

/-! ### The row of the event map that a descriptor selects (R86) -/

theorem mkDescriptor_and (k k' : BitVec 2) (w w' : Width) (f f' : Offset) :
    mkDescriptor k w f &&& mkDescriptor k' w' f' = mkDescriptor (k &&& k') (w &&& w') (f &&& f') :=
  BitVec.and_append.trans (congrArg (· ++ (f &&& f')) BitVec.and_append)

/-- The event map by the fields of its patterns and masks. -/
theorem eventMap_eq_mkDescriptor : eventMap =
    [ ⟨.rdCtrl, mkDescriptor 0#2 4#6 0#24, mkDescriptor 3#2 63#6 0xFFFFFF#24⟩,
      ⟨.rdData, mkDescriptor 0#2 4#6 4#24, mkDescriptor 3#2 63#6 0xFFFFFF#24⟩,
      ⟨.wrCtrl, mkDescriptor 1#2 4#6 0#24, mkDescriptor 3#2 63#6 0xFFFFFF#24⟩,
      ⟨.wrData, mkDescriptor 1#2 4#6 4#24, mkDescriptor 3#2 63#6 0xFFFFFF#24⟩,
      ⟨.rdInvalid, mkDescriptor 0#2 0#6 0#24, mkDescriptor 3#2 0#6 0#24⟩,
      ⟨.wrInvalid, mkDescriptor 1#2 0#6 0#24, mkDescriptor 3#2 0#6 0#24⟩,
      ⟨.evReset, mkDescriptor 2#2 0#6 0#24, mkDescriptor 3#2 63#6 0xFFFFFF#24⟩,
      ⟨.evRxDeliver, mkDescriptor 2#2 0#6 1#24, mkDescriptor 3#2 63#6 0xFFFFFF#24⟩,
      ⟨.qCanReceive, mkDescriptor 2#2 0#6 2#24, mkDescriptor 3#2 63#6 0xFFFFFF#24⟩ ] := by decide

/-- A row whose mask is all ones is matched by its pattern alone. -/
theorem mkDescriptor_and_ones_beq (k k' : BitVec 2) (w w' : Width) (f f' : Offset) :
    (mkDescriptor k w f &&& mkDescriptor 3#2 63#6 0xFFFFFF#24 == mkDescriptor k' w' f') =
      decide (k = k' ∧ w = w' ∧ f = f') := by
  have hk : k &&& 3#2 = k := BitVec.and_allOnes
  have hw : w &&& 63#6 = w := BitVec.and_allOnes
  have hf : f &&& 0xFFFFFF#24 = f := BitVec.and_allOnes
  rw [mkDescriptor_and, hk, hw, hf, beq_eq_decide, decide_eq_decide, mkDescriptor_inj]

/-- A row whose mask is that of KIND is matched by its kind. -/
theorem mkDescriptor_and_kind_beq (k k' : BitVec 2) (w : Width) (f : Offset) :
    (mkDescriptor k w f &&& mkDescriptor 3#2 0#6 0#24 == mkDescriptor k' 0#6 0#24) = decide (k = k') := by
  have hk : k &&& 3#2 = k := BitVec.and_allOnes
  rw [mkDescriptor_and, hk, BitVec.and_zero, BitVec.and_zero, beq_eq_decide, decide_eq_decide, mkDescriptor_inj]
  simp

theorem map_row_find?_cons (p : MapRow → Bool) (r : MapRow) (rs : List MapRow) :
    ((r :: rs).find? p).map MapRow.row = if p r = true then some r.row else (rs.find? p).map MapRow.row := by
  rw [List.find?_cons]
  cases p r <;> rfl

/-- The first row by the fields: CTRL and DATA accesses before the invalid ones, then the host events. -/
theorem firstRow_mkDescriptor (k : BitVec 2) (w : Width) (f : Offset) :
    firstRow (mkDescriptor k w f) =
      if k = 0#2 ∧ w = 4#6 ∧ f = 0#24 then some .rdCtrl
      else if k = 0#2 ∧ w = 4#6 ∧ f = 4#24 then some .rdData
      else if k = 1#2 ∧ w = 4#6 ∧ f = 0#24 then some .wrCtrl
      else if k = 1#2 ∧ w = 4#6 ∧ f = 4#24 then some .wrData
      else if k = 0#2 then some .rdInvalid
      else if k = 1#2 then some .wrInvalid
      else if k = 2#2 ∧ w = 0#6 ∧ f = 0#24 then some .evReset
      else if k = 2#2 ∧ w = 0#6 ∧ f = 1#24 then some .evRxDeliver
      else if k = 2#2 ∧ w = 0#6 ∧ f = 2#24 then some .qCanReceive
      else none := by
  simp only [firstRow, eventMap_eq_mkDescriptor, map_row_find?_cons, mkDescriptor_and_ones_beq,
    mkDescriptor_and_kind_beq, decide_eq_true_eq, List.find?_nil, Option.map_none]

/-- A guest read selects the row of what it decodes to. -/
theorem firstRow_read (dev : Device) (w : Width) (f : Offset) :
    firstRow (mkDescriptor 0#2 w f) = some (decodeRead dev f w).row := by
  rw [firstRow_mkDescriptor]
  unfold decodeRead
  by_cases hctrl : w = 4#6 ∧ f = 0#24
  · cases dev <;> simp [hctrl, Instr.row]
  · by_cases hdata : w = 4#6 ∧ f = 4#24
    · cases dev <;> simp [hdata, Instr.row]
    · cases dev <;> simp [hctrl, hdata, Instr.row]

theorem firstRow_write (dev : Device) (w : Width) (f : Offset) (v : Word) :
    firstRow (mkDescriptor 1#2 w f) = some (decodeWrite dev f w v).row := by
  rw [firstRow_mkDescriptor]
  unfold decodeWrite
  by_cases hctrl : w = 4#6 ∧ f = 0#24
  · cases dev <;> simp [hctrl, Instr.row]
  · by_cases hdata : w = 4#6 ∧ f = 4#24
    · cases dev <;> simp [hdata, Instr.row]
    · cases dev <;> simp [hctrl, hdata, Instr.row]

theorem firstRow_hostEvent {dev : Device} {evt : Offset} {b : Byte} {i : Instr}
    (h : decodeHostEvent dev evt b = .ok i) : firstRow (mkDescriptor 2#2 0#6 evt) = some i.row := by
  rw [firstRow_mkDescriptor]
  rcases decodeHostEvent_eq_ok h with ⟨rfl, rfl | rfl⟩ | ⟨rfl, rfl⟩ | ⟨rfl, rfl⟩ <;> rfl

/-- The rows of the host events: width 0 and one of the three ids. -/
theorem firstRow_hostEvent_cases {w : Width} {evt : Offset} {row : Row}
    (h : firstRow (mkDescriptor 2#2 w evt) = some row) :
    w = 0#6 ∧ ((evt = 0#24 ∧ row = .evReset) ∨ (evt = 1#24 ∧ row = .evRxDeliver) ∨
      (evt = 2#24 ∧ row = .qCanReceive)) := by
  simp only [firstRow_mkDescriptor, BitVec.reduceEq, false_and, true_and, if_false] at h
  split at h
  · cases h; tauto
  · split at h
    · cases h; tauto
    · split at h
      · cases h; tauto
      · cases h

theorem firstRow_reserved (w : Width) (f : Offset) : firstRow (mkDescriptor 3#2 w f) = none := by
  simp [firstRow_mkDescriptor]

/-- What decodes selects its own row. -/
theorem firstRow_of_decodeDescriptor {regionSize : Nat} {dev : Device} {d v : Word} {i : Instr}
    (h : decodeDescriptor regionSize dev d v = .ok i) : firstRow d = some i.row := by
  obtain ⟨k, w, f, rfl⟩ := exists_mkDescriptor d
  rcases decodeDescriptor_eq_ok h with ⟨rfl, -, rfl⟩ | ⟨rfl, -, rfl⟩ | ⟨rfl, rfl, hevt⟩
  · exact firstRow_read dev w f
  · exact firstRow_write dev w f v
  · exact firstRow_hostEvent hevt

theorem kind_cases (k : BitVec 2) : k = 0#2 ∨ k = 1#2 ∨ k = 2#2 ∨ k = 3#2 := by
  revert k
  decide

/-- A descriptor that selects a row of the device decodes, if a guest access's offset lies in the window. -/
theorem decodeDescriptor_of_firstRow {regionSize : Nat} {dev : Device} {d : Word} {row : Row} (v : Word)
    (h : firstRow d = some row) (hin : (kindOf d).toNat < 2 → inWindow regionSize (fieldOf d) = true)
    (hdev : dev = .spi → row ≠ .evRxDeliver ∧ row ≠ .qCanReceive) :
    ∃ i, decodeDescriptor regionSize dev d v = .ok i := by
  obtain ⟨k, w, f, rfl⟩ := exists_mkDescriptor d
  rw [kindOf_mkDescriptor, fieldOf_mkDescriptor] at hin
  rcases kind_cases k with rfl | rfl | rfl | rfl
  · exact ⟨_, decodeDescriptor_read dev w v (hin (by decide))⟩
  · exact ⟨_, decodeDescriptor_write dev w v (hin (by decide))⟩
  · obtain ⟨rfl, hrow⟩ := firstRow_hostEvent_cases h
    rw [decodeDescriptor_hostEvent]
    rcases hrow with ⟨rfl, rfl⟩ | ⟨rfl, rfl⟩ | ⟨rfl, rfl⟩ <;> cases dev
    case inr.inl.spi => exact absurd rfl (hdev rfl).1
    case inr.inr.spi => exact absurd rfl (hdev rfl).2
    all_goals exact ⟨_, rfl⟩
  · rw [firstRow_reserved] at h
    cases h

/-- With a payload present, bytes decode or are refused as their descriptor is. -/
theorem decode_with_payload (regionSize : Nat) (dev : Device) (d : Word) {payload : List Byte}
    (hlen : payload.length = 4) :
    ∃ v more, decode regionSize dev (bytesOfWord d ++ payload) =
      (decodeDescriptor regionSize dev d v).map fun i => (i, more) :=
  ⟨_, _, decode_of_payload_present (hlen ▸ payloadBytes_le d)⟩

/-- Settles O3: what decodes selects its own row, and a descriptor that selects a row of the device decodes. -/
theorem decoderSelectsTheFirstMatchingRow : Obligations.DecoderSelectsTheFirstMatchingRow := by
  intro regionSize dev d payload hlen
  obtain ⟨v, more, hdecode⟩ := decode_with_payload regionSize dev d hlen
  rw [hdecode, ← kindOf_toNat, ← fieldOf_toNat]
  cases hd : decodeDescriptor regionSize dev d v with
  | ok j =>
    have hrow := firstRow_of_decodeDescriptor hd
    refine ⟨fun i rest h => ?_, fun hnone => ?_, fun _ _ _ _ => ⟨j, more, rfl⟩⟩
    · cases h
      exact ⟨hrow, decodeDescriptor_device hd⟩
    · rw [hrow] at hnone
      cases hnone
  | error e =>
    refine ⟨fun i rest h => (by cases h), fun _ => ⟨e, rfl⟩, fun row hrow hin hdev => ?_⟩
    obtain ⟨i, hi⟩ := decodeDescriptor_of_firstRow v hrow (fun hk => decide_eq_true (hin hk)) hdev
    rw [hd] at hi
    cases hi

/-! ### The refused descriptors (R88) -/

/-- The row of R88's table that a reason names, as a condition on KIND, WIDTH, FIELD, the device and the window. -/
def RefusalRow (regionSize : Nat) (dev : Device) (kind width field : Nat) : DecodeRefusal → Prop
  | .reservedKind => kind = 3
  | .eventWidthNonzero => kind = 2 ∧ width ≠ 0
  | .unknownEvent => kind = 2 ∧ 2 < field
  | .eventNotOnDevice => kind = 2 ∧ (field = 1 ∨ field = 2) ∧ dev = .spi
  | .notThisDevice => kind < 2 ∧ regionSize ≤ field
  | .truncatedEvent => False

theorem decodeHostEvent_eq_error {dev : Device} {evt : Offset} {b : Byte} {e : DecodeRefusal}
    (h : decodeHostEvent dev evt b = .error e) (regionSize width : Nat) :
    RefusalRow regionSize dev 2 width evt.toNat e := by
  unfold decodeHostEvent at h
  split at h
  case isTrue => cases dev <;> cases h
  case isFalse h0 =>
    split at h
    case isTrue h1 => cases dev <;> cases h; exact ⟨rfl, .inl (congrArg BitVec.toNat h1), rfl⟩
    case isFalse h1 =>
      split at h
      case isTrue h2 => cases dev <;> cases h; exact ⟨rfl, .inr (congrArg BitVec.toNat h2), rfl⟩
      case isFalse h2 => cases h; exact ⟨rfl, by bv_omega⟩

/-- A refusal names a row that the descriptor matches. -/
theorem decodeDescriptor_eq_error {regionSize : Nat} {dev : Device} {k : BitVec 2} {w : Width} {f : Offset} {v : Word}
    {e : DecodeRefusal} (h : decodeDescriptor regionSize dev (mkDescriptor k w f) v = .error e) :
    RefusalRow regionSize dev k.toNat w.toNat f.toNat e := by
  rw [decodeDescriptor_mkDescriptor] at h
  split at h
  case isTrue h3 => cases h; exact congrArg BitVec.toNat h3
  case isFalse h3 =>
    split at h
    case isTrue h2 =>
      subst h2
      split at h
      case isTrue => exact decodeHostEvent_eq_error h ..
      case isFalse hw => cases h; exact ⟨rfl, by bv_omega⟩
    case isFalse h2 =>
      split at h
      case isTrue => split at h <;> cases h
      case isFalse hin => cases h; exact ⟨by bv_omega, Nat.not_lt.1 fun hlt => hin (decide_eq_true hlt)⟩

/-- The rows of the table for guest accesses (KIND 00 and 01). -/
theorem RefusalRow.guestAccess {regionSize : Nat} {dev : Device} {kind width field : Nat} {e : DecodeRefusal}
    (h : RefusalRow regionSize dev kind width field e) (hkind : kind < 2) : regionSize ≤ field := by
  cases e
  case notThisDevice => exact h.2
  case truncatedEvent => exact h.elim
  all_goals simp only [RefusalRow] at h; omega

/-- The rows of the table for host events of width 0. -/
theorem RefusalRow.hostEvent {regionSize : Nat} {dev : Device} {field : Nat} {e : DecodeRefusal}
    (h : RefusalRow regionSize dev 2 0 field e) : 2 < field ∨ ((field = 1 ∨ field = 2) ∧ dev = .spi) := by
  cases e
  case unknownEvent => exact .inl h.2
  case eventNotOnDevice => exact .inr h.2
  all_goals simp [RefusalRow] at h

/-- A descriptor that matches a row of the table does not decode. -/
theorem decodeDescriptor_ne_ok {regionSize : Nat} {dev : Device} {k : BitVec 2} {w : Width} {f : Offset}
    {e : DecodeRefusal} (he : RefusalRow regionSize dev k.toNat w.toNat f.toNat e) (v : Word) (i : Instr) :
    decodeDescriptor regionSize dev (mkDescriptor k w f) v ≠ .ok i := by
  intro h
  rcases decodeDescriptor_eq_ok h with ⟨rfl, hin, -⟩ | ⟨rfl, hin, -⟩ | ⟨rfl, rfl, hevt⟩
  · exact (he.guestAccess (by decide)).not_gt (of_decide_eq_true hin)
  · exact (he.guestAccess (by decide)).not_gt (of_decide_eq_true hin)
  · have hrow := he.hostEvent
    have hdev := decodeHostEvent_device hevt
    rcases decodeHostEvent_eq_ok hevt with ⟨rfl, -⟩ | ⟨rfl, rfl⟩ | ⟨rfl, rfl⟩ <;>
      simp [← hdev, Instr.device] at hrow

/-- Settles O4: a refusal names a row that the descriptor matches, and no descriptor that matches a row decodes. -/
theorem decoderRefusesExactlyTheTableOfR88 : Obligations.DecoderRefusesExactlyTheTableOfR88 := by
  intro regionSize dev d payload hlen kind width field refusedAs
  obtain ⟨v, more, hdecode⟩ := decode_with_payload regionSize dev d hlen
  obtain ⟨k, w, f, rfl⟩ := exists_mkDescriptor d
  have hkind : kind = k.toNat := by rw [← kindOf_mkDescriptor k w f, kindOf_toNat]
  have hwidth : width = w.toNat := by rw [← widthOf_mkDescriptor k w f, widthOf_toNat]
  have hfield : field = f.toNat := by rw [← fieldOf_mkDescriptor k w f, fieldOf_toNat]
  have hrefused : ∀ e, refusedAs e → RefusalRow regionSize dev kind width field e := by
    intro e he
    rw [hkind, hwidth, hfield]
    cases hd : decodeDescriptor regionSize dev (mkDescriptor k w f) v with
    | ok i => simp [refusedAs, hdecode, hd, Except.map] at he
    | error e' =>
      obtain rfl : e' = e := by simpa [refusedAs, hdecode, hd, Except.map] using he
      exact decodeDescriptor_eq_error hd
  have hrow : ∀ e, RefusalRow regionSize dev kind width field e → ∃ e', refusedAs e' := by
    intro e he
    rw [hkind, hwidth, hfield] at he
    cases hd : decodeDescriptor regionSize dev (mkDescriptor k w f) v with
    | ok i => exact absurd hd (decodeDescriptor_ne_ok he v i)
    | error e' => exact ⟨e', by simp [refusedAs, hdecode, hd, Except.map]⟩
  refine ⟨hrefused _, hrefused _, hrefused _, hrefused _, hrefused _, hrefused _, ?_⟩
  rintro (h | h | h | h | h)
  · exact hrow .reservedKind h
  · exact hrow .eventWidthNonzero h
  · exact hrow .unknownEvent h
  · exact hrow .eventNotOnDevice h
  · exact hrow .notThisDevice h

end Sys2Proof.Machine
end

section
/-! SUPPORT. The spec's text form: the bytes of a line of R90 are the encoding of its event, and what the
pseudo-instructions of R91 for the SPI do. -/

namespace Sys2Proof.Machine

/-! ### The lines of the text form (R90) -/

/-- The descriptor as R90 writes it. -/
theorem mkDescriptor_eq_or (k : BitVec 2) (w : Width) (f : Offset) :
    mkDescriptor k w f = (k.setWidth 32 <<< 30) ||| (w.setWidth 32 <<< 24) ||| f.setWidth 32 :=
  (BitVec.setWidth_eq _).symm.trans BitVec.setWidth_append_append_eq_shiftLeft_setWidth_or

theorem AsmLine.descriptor_rd (off : Offset) (w : Width) : (AsmLine.rd off w).descriptor = mkDescriptor 0#2 w off :=
  (mkDescriptor_eq_or 0#2 w off).symm

theorem AsmLine.descriptor_wr (off : Offset) (w : Width) (v : Word) :
    (AsmLine.wr off w v).descriptor = mkDescriptor 1#2 w off :=
  (mkDescriptor_eq_or 1#2 w off).symm

/-- Settles O53: a line's bytes are the encoding of the instruction of its row. -/
theorem asmLinesSpellTheirEvents : Obligations.AsmLinesSpellTheirEvents := by
  intro s rest off w v b hoff huart hspi fetched runs
  have hin : inWindow s.params.regionSize off = true := decide_eq_true hoff
  have hattached : ∀ dev, s.isAttached dev 0 = true := by
    rintro (_ | _)
    · exact huart
    · exact hspi
  have hruns : ∀ (dev : Device) (line : AsmLine) (i : Instr), i.device = dev → i.wf s.params.regionSize = true →
      bytesOfWord line.descriptor ++ line.payload = encode i → fetched dev line = runs i := by
    rintro dev line i rfl hwf hbytes
    refine fetchRequest_event (tail := []) rest (hattached _) ?_
    rw [hbytes, ← List.append_nil (encode i)]
    exact decodeOfEncodeGivesTheInstruction _ i [] hwf
  refine ⟨fun dev => ?_, fun dev => ?_, hruns _ _ _ rfl rfl rfl, hruns _ _ _ rfl rfl rfl, hruns _ _ _ rfl rfl rfl,
    hruns _ _ _ rfl rfl rfl⟩
  · have henc := decodeRead_encodedAs dev w hin
    exact hruns _ _ _ (decodeRead_device ..) henc.wf (by rw [henc.encode_eq, AsmLine.descriptor_rd]; rfl)
  · have henc := decodeWrite_encodedAs dev w v hin
    exact hruns _ _ _ (decodeWrite_device ..) henc.wf (by rw [henc.encode_eq, AsmLine.descriptor_wr]; rfl)

/-! ### `spi.xfer` (R91) -/

/-- From an empty TX FIFO, a DATA write and a DATA read exchange one byte, and the read takes the front of RX as the
push of the response left it. -/
theorem execAll_spiWrData_spiRdData {s : State} (v : Word) (htx : s.spi.tx = []) {b : Byte} {q : List Byte}
    (hpush : (fifoPush spiRxCap s.spi.rx (s.spiResponse (dataByte v))).1 = b :: q) :
    ∃ t, execAll [.spiWrData v, .spiRdData] s = .next t ∧
      t.spiXfers = s.spiXfers ++ [⟨dataByte v, s.spi.cs, s.spiResponse (dataByte v)⟩] ∧
      t.answer = .value (zext32 b) ∧ t.spi.rx = q := by
  have hrx : ((((s.exchange (dataByte v)).recomputeSpi).withAnswer .nothing)).spi.rx = b :: q :=
    (State.exchange_spi_rx ..).trans hpush
  have hexec : execAll [.spiWrData v, .spiRdData] s = _ :=
    (execAll_cons_next _ (exec_spiWrData_of_tx_empty v htx)).trans (execAll_cons_next [] (exec_spiRdData_cons hrx))
  exact ⟨_, hexec, by simp [State.exchange_spiXfers], rfl, rfl⟩

/-- Settles O30: the response goes to the end of RX, and the read takes the byte at its front. -/
theorem spiXferReturnsTheOldestResponse : Obligations.SpiXferReturnsTheOldestResponse := by
  intro v s hok
  cases hrx : s.spi.rx with
  | nil =>
    obtain ⟨t, hexec, hxfers, hanswer, hrest⟩ := execAll_spiWrData_spiRdData v hok.tx_empty
      (by rw [hrx, fifoPush_of_lt _ (by decide)]; rfl)
    exact ⟨t, _, hexec, hxfers, dataByte_eq v, rfl, fun _ => ⟨hanswer, hrest⟩, nofun⟩
  | cons b q =>
    have hpush : ∀ r, (fifoPush spiRxCap (b :: q) r).1 = b :: (if q.length < 7 then q ++ [r] else q) := by
      intro r
      by_cases hq : q.length < 7
      · rw [fifoPush_of_lt r (Nat.succ_lt_succ hq), if_pos hq, List.cons_append]
      · rw [fifoPush_of_full r (Nat.succ_le_succ (Nat.not_lt.1 hq)), if_neg hq]
    obtain ⟨t, hexec, hxfers, hanswer, hrest⟩ := execAll_spiWrData_spiRdData v hok.tx_empty
      ((congrArg (fun rx => (fifoPush spiRxCap rx _).1) hrx).trans (hpush _))
    refine ⟨t, _, hexec, hxfers, dataByte_eq v, rfl, nofun, fun b' q' h => ?_⟩
    cases h
    exact ⟨hanswer, hrest⟩

/-! ### `spi.select` and `spi.deselect` (R91, R182) -/

/-- The word `spi.select` writes. -/
def selectWord (l : SpiLayout) (cfg : Word) (i : Fin 3) : Word :=
  (cfg &&& ~~~asmSelMask l) ||| bit l.csEn ||| asmSel l i

theorem asmSpiSelect_eq (l : SpiLayout) (cfg : Word) (i : Fin 3) :
    asmSpiSelect l cfg i = .wr 0#24 4#6 (selectWord l cfg i) := rfl

theorem getLsbD_asmSel (l : SpiLayout) (i : Fin 3) {j : Nat} (hj : j < 32) :
    (asmSel l i).getLsbD j =
      ((decide (i = 1) && decide (j = l.csSel1)) || (decide (i = 2) && decide (j = l.csSel2))) := by
  match i with
  | 0 => simp [asmSel]
  | 1 => simp only [asmSel, getLsbD_bit, hj]; simp
  | 2 => simp only [asmSel, getLsbD_bit, hj]; simp

theorem getLsbD_asmSelMask (l : SpiLayout) {j : Nat} (hj : j < 32) :
    (asmSelMask l).getLsbD j =
      (decide (j = l.csSel0) || decide (j = l.csSel1) || decide (j = l.csSel2) || decide (j = l.csEn)) := by
  simp only [asmSelMask, BitVec.getLsbD_or, getLsbD_bit, hj, decide_true, Bool.true_and]

theorem getLsbD_selectWord (l : SpiLayout) (cfg : Word) (i : Fin 3) {j : Nat} (hj : j < 32) :
    (selectWord l cfg i).getLsbD j =
      ((cfg.getLsbD j && !(asmSelMask l).getLsbD j) || decide (j = l.csEn) || (asmSel l i).getLsbD j) := by
  simp only [selectWord, BitVec.getLsbD_or, BitVec.getLsbD_and, BitVec.getLsbD_not, getLsbD_bit, hj, decide_true,
    Bool.true_and]

/-- Outside the select fields the word keeps the guest's bits. -/
theorem selectWord_and_not_selMask (l : SpiLayout) (cfg : Word) (i : Fin 3) :
    selectWord l cfg i &&& ~~~asmSelMask l = cfg &&& ~~~asmSelMask l := by
  refine word_ext fun j hj => ?_
  rw [BitVec.getLsbD_and, BitVec.getLsbD_and, BitVec.getLsbD_not, getLsbD_selectWord l cfg i hj]
  cases hm : (asmSelMask l).getLsbD j with
  | true => simp
  | false =>
    rw [getLsbD_asmSelMask l hj] at hm
    simp only [Bool.or_eq_false_iff] at hm
    simp [getLsbD_asmSel l i hj, hm]

theorem getLsbD_unionMask_of_bit_mem {fs : List Field} {a : Nat} (hmem : bitField a ∈ fs) (ha : a < 32) :
    (unionMask fs).getLsbD a = true := by
  rw [getLsbD_unionMask, List.any_eq_true]
  exact ⟨_, hmem, by simp [bitField_getLsbD_mask, ha]⟩

/-- What a well-formed layout says of the fields that route the chip-selects: places in the word, no two alike. -/
structure SelectFields (l : SpiLayout) : Prop where
  sel1_lt : l.csSel1 < 32
  sel2_lt : l.csSel2 < 32
  en_lt : l.csEn < 32
  sel1_ne_sel2 : l.csSel1 ≠ l.csSel2
  sel1_ne_en : l.csSel1 ≠ l.csEn
  sel2_ne_en : l.csSel2 ≠ l.csEn

theorem selectFields_of_wf {l : SpiLayout} (h : l.wf = true) : SelectFields l := by
  have hwf : fieldsWf (l.rwFields ++ l.roFields) = true := (Bool.and_eq_true_iff.1 h).1
  have h1 : (l.rwFields ++ l.roFields)[4]? = some (bitField l.csSel1) := rfl
  have h2 : (l.rwFields ++ l.roFields)[5]? = some (bitField l.csSel2) := rfl
  have h3 : (l.rwFields ++ l.roFields)[6]? = some (bitField l.csEn) := rfl
  exact ⟨fieldsWf_bit_lt hwf h1, fieldsWf_bit_lt hwf h2, fieldsWf_bit_lt hwf h3, fieldsWf_bit_ne hwf h1 h2 (by decide),
    fieldsWf_bit_ne hwf h1 h3 (by decide), fieldsWf_bit_ne hwf h2 h3 (by decide)⟩

section SelectWord
variable {l : SpiLayout} (h : SelectFields l) (cfg : Word) (i : Fin 3)
include h

theorem selectWord_csEn : (selectWord l cfg i).getLsbD l.csEn = true := by
  simp [getLsbD_selectWord l cfg i h.en_lt]

theorem selectWord_csSel1 : (selectWord l cfg i).getLsbD l.csSel1 = decide (i = 1) := by
  rw [getLsbD_selectWord l cfg i h.sel1_lt, getLsbD_asmSelMask l h.sel1_lt, getLsbD_asmSel l i h.sel1_lt]
  simp [h.sel1_ne_en, h.sel1_ne_sel2]

theorem selectWord_csSel2 : (selectWord l cfg i).getLsbD l.csSel2 = decide (i = 2) := by
  rw [getLsbD_selectWord l cfg i h.sel2_lt, getLsbD_asmSelMask l h.sel2_lt, getLsbD_asmSel l i h.sel2_lt]
  simp [h.sel2_ne_en, h.sel1_ne_sel2.symm]

theorem wmask_csSel1 : l.wmask.getLsbD l.csSel1 = true :=
  getLsbD_unionMask_of_bit_mem (by simp [SpiLayout.rwFields]) h.sel1_lt

theorem wmask_csSel2 : l.wmask.getLsbD l.csSel2 = true :=
  getLsbD_unionMask_of_bit_mem (by simp [SpiLayout.rwFields]) h.sel2_lt

theorem wmask_csEn : l.wmask.getLsbD l.csEn = true :=
  getLsbD_unionMask_of_bit_mem (by simp [SpiLayout.rwFields]) h.en_lt

end SelectWord

/-- The line that a stored `spi.select` word routes to. -/
theorem csSelected_selectWord {p : Params} (h : SelectFields p.spi) (cfg : Word) {i : Fin 3} (hi : i.val < p.ncs) :
    csSelected p (selectWord p.spi cfg i &&& p.spi.wmask) = some i.val := by
  rw [csSelected_eq_some_iff, ← csIndex_spec]
  simp only [BitVec.getLsbD_and, selectWord_csEn h, selectWord_csSel1 h, selectWord_csSel2 h, wmask_csEn h,
    wmask_csSel1 h, wmask_csSel2 h, Bool.and_true]
  refine ⟨trivial, hi, ?_⟩
  match i with
  | 0 => rfl
  | 1 => rfl
  | 2 => rfl

/-- A stored `spi.deselect` word routes to no line. -/
theorem csSelected_deselect (p : Params) (cfg m : Word) : csSelected p (cfg &&& ~~~bit p.spi.csEn &&& m) = none := by
  refine Option.eq_none_iff_forall_ne_some.2 fun k hk => ?_
  obtain ⟨hen, -⟩ := csSelected_eq_some_iff.1 hk
  have hlt := BitVec.lt_of_getLsbD hen
  rw [BitVec.getLsbD_and, BitVec.getLsbD_and, BitVec.getLsbD_not, getLsbD_bit] at hen
  simp [hlt] at hen

/-- A CTRL write leaves the levels that its stored word routes to. -/
theorem exec_spiWrCtrl_cs_cfg (v : Word) (s : State) :
    ∃ t, exec (.spiWrCtrl v) s = .next t ∧ t.spi.cs = csLevels s.params (v &&& s.params.spi.wmask) ∧
      t.spi.cfg = v &&& s.params.spi.wmask :=
  ⟨_, exec_spiWrCtrl v s, rfl, rfl⟩

/-- Settles O54: the stored word enables the lines and names line `i`, or enables none. -/
theorem spiSelectPseudoInstructionSelects : Obligations.SpiSelectPseudoInstructionSelects := by
  intro s cfg i hwf hi
  obtain ⟨-, hspi, -⟩ := Params.wf_iff.1 hwf
  have hfields := selectFields_of_wf hspi
  constructor
  · obtain ⟨t, hexec, hcs, hcfg⟩ := exec_spiWrCtrl_cs_cfg (selectWord s.params.spi cfg i) s
    refine ⟨t, _, asmSpiSelect_eq .., hexec, fun k hk => ?_, ?_⟩
    · rw [hcs, csLevels_getElem? _ _ hk, csSelected_selectWord hfields cfg hi]
      simp [eq_comm]
    · rw [hcfg, BitVec.and_assoc, BitVec.and_comm s.params.spi.wmask, ← BitVec.and_assoc, selectWord_and_not_selMask,
        BitVec.and_assoc, BitVec.and_comm _ s.params.spi.wmask, ← BitVec.and_assoc]
  · obtain ⟨t, hexec, hcs, -⟩ := exec_spiWrCtrl_cs_cfg (cfg &&& ~~~bit s.params.spi.csEn) s
    exact ⟨t, _, rfl, hexec, by rw [hcs, csLevels, csSelected_deselect]⟩

end Sys2Proof.Machine
end

section
/-! SUPPORT. The register decoder's invalid accesses (R101, R102): which accesses they are, and that they only log. -/

namespace Sys2Proof.Machine

/-! ### Which accesses are invalid -/

theorem selectsRegister_eq_false_iff_toNat {off : Offset} {w : Width} :
    selectsRegister off w = false ↔ ¬(w.toNat = 4 ∧ (off.toNat = 0 ∨ off.toNat = 4)) := by
  rw [selectsRegister_eq_false, ← not_or, ← and_or_left]
  simp only [← BitVec.toNat_inj, BitVec.toNat_ofNat, Nat.reducePow, Nat.reduceMod]

/-- An invalid access in the window spells an event (R83, R87). -/
theorem wf_of_invalidAccess {regionSize : Nat} {off : Offset} {w : Width} (hin : off.toNat < regionSize)
    (hinvalid : ¬(w.toNat = 4 ∧ (off.toNat = 0 ∨ off.toNat = 4))) :
    (inWindow regionSize off && !selectsRegister off w) = true :=
  inWindow_and_not_selects.2 ⟨decide_eq_true hin, selectsRegister_eq_false_iff_toNat.2 hinvalid⟩

/-! ### What an event that only logs leaves (R39, R104, R105) -/

section OnlyLogs
variable (s : State) (r : LogRecord) (a : Answer)

theorem State.logUart_recomputeUart_withAnswer :
    ((s.logUart r).recomputeUart).withAnswer a = { s with
      uart := { s.uart with irq := Spec.uartLevel s.params.uart s.uart.cfg s.uart.rx }
      uartLog := s.uartLog ++ [r], answer := a } := by
  rw [State.recomputeUart_eq]
  rfl

theorem State.logSpi_recomputeSpi_withAnswer :
    ((s.logSpi r).recomputeSpi).withAnswer a = { s with
      spi := { s.spi with cs := Spec.csLines s.params s.spi.cfg
                          irq := Spec.spiLevel s.params.spi s.spi.cfg s.spi.rx s.spi.tx }
      spiLog := s.spiLog ++ [r], answer := a } := by
  rw [State.recomputeSpi_eq]
  rfl

variable {s}

/-- Between two events the pins keep their levels (R165). -/
theorem State.logUart_recomputeUart_withAnswer_of_ok (h : s.uart.Ok s.params) :
    ((s.logUart r).recomputeUart).withAnswer a = { s with uartLog := s.uartLog ++ [r], answer := a } := by
  have hok : (s.logUart r).uart.Ok (s.logUart r).params := h
  rw [State.recomputeUart_of_ok hok]
  rfl

theorem State.logSpi_recomputeSpi_withAnswer_of_ok (h : s.spi.Ok s.params) :
    ((s.logSpi r).recomputeSpi).withAnswer a = { s with spiLog := s.spiLog ++ [r], answer := a } := by
  have hok : (s.logSpi r).spi.Ok (s.logSpi r).params := h
  rw [State.recomputeSpi_of_ok hok]
  rfl

end OnlyLogs

/-! ### The obligations -/

/-- Settles O31: an invalid read is well-formed, so its bytes decode to it; its event only logs and answers 0. -/
theorem invalidReadsAnswerZeroAndChangeNothing : Obligations.InvalidReadsAnswerZeroAndChangeNothing := by
  intro off w
  refine ⟨fun regionSize rest hin hinvalid => ?_, fun s => ⟨?_, ?_, fun hs => ⟨?_, ?_⟩⟩⟩
  · have hwf := wf_of_invalidAccess hin hinvalid
    exact ⟨decodeOfEncodeGivesTheInstruction regionSize (.uartRdInvalid off w) rest hwf,
      decodeOfEncodeGivesTheInstruction regionSize (.spiRdInvalid off w) rest hwf⟩
  · rw [exec_uartRdInvalid, State.logUart_recomputeUart_withAnswer]
  · rw [exec_spiRdInvalid, State.logSpi_recomputeSpi_withAnswer]
  · rw [exec_uartRdInvalid, State.logUart_recomputeUart_withAnswer_of_ok _ _ hs.uart_ok]
  · rw [exec_spiRdInvalid, State.logSpi_recomputeSpi_withAnswer_of_ok _ _ hs.spi_ok]

/-- Settles O32: an invalid write is well-formed, so its descriptor and VALUE decode to it; its event only logs. -/
theorem invalidWritesAreIgnored : Obligations.InvalidWritesAreIgnored := by
  intro off w v
  refine ⟨fun regionSize rest hin hinvalid => ?_, fun s => ⟨?_, ?_, fun hs => ⟨?_, ?_⟩⟩⟩
  · have hwf := wf_of_invalidAccess hin hinvalid
    exact ⟨decodeOfEncodeGivesTheInstruction regionSize (.uartWrInvalid off w v) rest hwf,
      decodeOfEncodeGivesTheInstruction regionSize (.spiWrInvalid off w v) rest hwf⟩
  · rw [exec_uartWrInvalid, State.logUart_recomputeUart_withAnswer]
  · rw [exec_spiWrInvalid, State.logSpi_recomputeSpi_withAnswer]
  · rw [exec_uartWrInvalid, State.logUart_recomputeUart_withAnswer_of_ok _ _ hs.uart_ok]
  · rw [exec_spiWrInvalid, State.logSpi_recomputeSpi_withAnswer_of_ok _ _ hs.spi_ok]

end Sys2Proof.Machine
end

section
/-! SUPPORT. The FIFO buffers (41_fifo.md): what one push and a run of pushes and pops do to the bytes held. -/

namespace Sys2Proof.Machine

/-! ### One push (R121) -/

/-- A push keeps the bytes held at the front of the queue. -/
theorem isPrefix_fifoPush_fst (cap : Nat) (q : List Byte) (b : Byte) : q <+: (fifoPush cap q b).1 := by
  by_cases hroom : q.length < cap
  · rw [fifoPush_of_lt b hroom]
    exact ⟨[b], rfl⟩
  · rw [fifoPush_of_full b (Nat.not_lt.1 hroom)]

/-- Settles O41: the guard of a push on a queue within its capacity fails only on a full one. -/
theorem pushAppendsOrReportsTheDrop : Obligations.PushAppendsOrReportsTheDrop := by
  intro cap q b hcap
  refine ⟨?_, fifoPush_length_le b hcap, isPrefix_fifoPush_fst cap q b⟩
  by_cases hfull : q.length = cap
  · rw [if_pos hfull, fifoPush_of_full b hfull.ge]
  · rw [if_neg hfull, fifoPush_of_lt b (lt_of_le_of_ne hcap hfull)]

/-! ### Runs of pushes and pops (R128) -/

theorem fifoRun_push_eq_some {cap : Nat} {b : Byte} {ops : List (Option Byte)} {q : List Byte}
    {r : List Byte × List Byte} (h : fifoRun cap (some b :: ops) q = some r) :
    q.length < cap ∧ fifoRun cap ops (q ++ [b]) = some r := by
  by_cases hroom : q.length < cap
  · rw [fifoRun, fifoPush_of_lt b hroom] at h
    exact ⟨hroom, h⟩
  · rw [fifoRun, fifoPush_of_full b (Nat.not_lt.1 hroom)] at h
    cases h

theorem fifoRun_pop_eq_some {cap : Nat} {ops : List (Option Byte)} {q held popped : List Byte}
    (h : fifoRun cap (none :: ops) q = some (held, popped)) :
    ∃ b q' popped', q = b :: q' ∧ popped = b :: popped' ∧ fifoRun cap ops q' = some (held, popped') := by
  cases q with
  | nil => cases h
  | cons b q' =>
    obtain ⟨⟨_, popped'⟩, hrun, heq⟩ := Option.map_eq_some_iff.1 h
    cases heq
    exact ⟨b, q', popped', rfl, rfl, hrun⟩

/-- From a queue within its capacity: the bytes come out in the order in which they went in, one for each pop, and the
queue stays within the capacity. -/
theorem fifoRun_spec {cap : Nat} {ops : List (Option Byte)} {q held popped : List Byte}
    (h : fifoRun cap ops q = some (held, popped)) (hq : q.length ≤ cap) :
    popped ++ held = q ++ ops.reduceOption ∧ popped.length = (ops.filter Option.isNone).length ∧
      held.length ≤ cap := by
  induction ops generalizing q popped with
  | nil =>
    cases h
    exact ⟨(List.append_nil held).symm, rfl, hq⟩
  | cons op ops ih =>
    cases op with
    | some b =>
      obtain ⟨hroom, hrun⟩ := fifoRun_push_eq_some h
      obtain ⟨horder, hpops, hheld⟩ := ih hrun (by simpa using hroom)
      exact ⟨by simpa using horder, hpops, hheld⟩
    | none =>
      obtain ⟨b, q', popped', rfl, rfl, hrun⟩ := fifoRun_pop_eq_some h
      obtain ⟨horder, hpops, hheld⟩ := ih hrun (Nat.le_of_succ_le hq)
      exact ⟨by simp [horder], by simp [hpops], hheld⟩

/-- Settles O42: the lengths of the two sides of the order give the count. -/
theorem fifoKeepsPushOrder : Obligations.FifoKeepsPushOrder := by
  refine ⟨fun cap ops q popped hrun => ?_, fun cap q b hfull => by rw [fifoPush_of_full b hfull.ge]⟩
  obtain ⟨horder, hpops, hheld⟩ := fifoRun_spec hrun (Nat.zero_le cap)
  have hcount := congrArg List.length horder
  rw [List.length_append, List.nil_append, List.reduceOption_length_eq, hpops, Nat.add_comm] at hcount
  exact ⟨horder, hcount, hheld⟩

end Sys2Proof.Machine
end

section
/-! SUPPORT. The UART's RX FIFO under sequences of events: a burst of deliveries, and reads of DATA. -/

namespace Sys2Proof.Machine

/-! ### Sequences of events -/

theorem execAll_append_of_next {is : List Instr} {s t : State} (js : List Instr) (h : execAll is s = .next t) :
    execAll (is ++ js) s = execAll js t := by
  induction is generalizing s with
  | nil =>
    cases h
    rfl
  | cons i is ih =>
    obtain ⟨m, hexec, hrest⟩ := execAll_cons_eq_next h
    rw [List.cons_append, execAll_cons_next _ hexec, ih hrest]

theorem exec_params {i : Instr} {s t : State} (h : exec i s = .next t) : t.params = s.params := by
  cases hdev : i.device with
  | uart =>
    obtain ⟨u, out, log, a, hexec, -⟩ := exec_uart hdev s
    cases hexec.symm.trans h
    rfl
  | spi =>
    obtain ⟨c, xfers, log, responses, draws, a, hexec, -⟩ := exec_spi hdev s
    cases hexec.symm.trans h
    rfl

theorem execAll_params {is : List Instr} {s t : State} (h : execAll is s = .next t) : t.params = s.params := by
  induction is generalizing s with
  | nil =>
    cases h
    rfl
  | cons i is ih =>
    obtain ⟨m, hexec, hrest⟩ := execAll_cons_eq_next h
    rw [ih hrest, exec_params hexec]

/-! ### Deliveries (R205) -/

/-- `t` is `s` after a delivery of the bytes, as far as the UART's FIFO, `cfg` and log go. -/
structure State.Delivered (s : State) (bs : List Byte) (t : State) : Prop where
  rx_eq : t.uart.rx = (s.uart.rx ++ bs).take uartRxCap
  cfg_eq : t.uart.cfg = s.uart.cfg
  log_eq : t.uartLog = s.uartLog ++ (bs.drop (uartRxCap - s.uart.rx.length)).map LogRecord.transportOverflow

theorem State.Delivered.nil {s : State} (h : s.uart.rx.length ≤ uartRxCap) : s.Delivered [] s where
  rx_eq := by rw [List.append_nil, List.take_of_length_le h]
  cfg_eq := rfl
  log_eq := by simp

theorem State.Delivered.rx_fits {s t : State} {bs : List Byte} (h : s.Delivered bs t) :
    t.uart.rx.length ≤ uartRxCap := by
  rw [h.rx_eq]
  exact List.length_take_le ..

/-- Deliveries compose: cutting in between loses and logs the same bytes. -/
theorem State.Delivered.append {s t u : State} {bs cs : List Byte} (h : s.Delivered bs t) (h' : t.Delivered cs u) :
    s.Delivered (bs ++ cs) u where
  rx_eq := by rw [h'.rx_eq, h.rx_eq, take_take_append, List.append_assoc]
  cfg_eq := h'.cfg_eq.trans h.cfg_eq
  log_eq := by
    have hroom : uartRxCap - t.uart.rx.length = uartRxCap - s.uart.rx.length - bs.length := by
      rw [h.rx_eq, List.length_take, List.length_append]
      omega
    rw [h'.log_eq, h.log_eq, hroom, List.append_assoc, ← List.map_append, ← List.drop_append]

/-- One delivery is stored or, when RX is full, logged. -/
theorem exec_uartEvRxDeliver_delivered {s : State} (b : Byte) (h : s.uart.rx.length ≤ uartRxCap) :
    ∃ t, exec (.uartEvRxDeliver b) s = .next t ∧ s.Delivered [b] t := by
  by_cases hroom : s.uart.rx.length < uartRxCap
  · refine ⟨_, exec_uartEvRxDeliver_room b hroom, ?_, rfl, ?_⟩
    · exact (List.take_of_length_le (by simpa using hroom)).symm
    · rw [List.drop_eq_nil_of_le (Nat.sub_pos_of_lt hroom)]
      exact (List.append_nil _).symm
  · have hfull : s.uart.rx.length = uartRxCap := h.antisymm (Nat.not_lt.1 hroom)
    refine ⟨_, exec_uartEvRxDeliver_full b hfull.ge, ?_, rfl, ?_⟩
    · rw [← hfull]
      exact List.take_left.symm
    · rw [hfull, Nat.sub_self]
      rfl

theorem execAll_uartEvRxDeliver (bs : List Byte) {s : State} (h : s.uart.rx.length ≤ uartRxCap) :
    ∃ t, execAll (bs.map Instr.uartEvRxDeliver) s = .next t ∧ s.Delivered bs t := by
  induction bs generalizing s with
  | nil => exact ⟨s, rfl, .nil h⟩
  | cons b bs ih =>
    obtain ⟨m, hexec, hm⟩ := exec_uartEvRxDeliver_delivered b h
    obtain ⟨t, hrest, ht⟩ := ih hm.rx_fits
    exact ⟨t, (execAll_cons_next _ hexec).trans hrest, hm.append ht⟩

/-- Settles O20: by induction on the burst, as deliveries compose. -/
theorem uartDeliveryBurstKeepsTheFirst32 : Obligations.UartDeliveryBurstKeepsTheFirst32 := by
  intro bs s hrx
  obtain ⟨t, hexec, hdelivered⟩ := execAll_uartEvRxDeliver bs hrx
  exact ⟨t, hexec, hdelivered.rx_eq, hdelivered.cfg_eq, hdelivered.log_eq⟩

/-- A burst that fits an empty RX is held whole, and nothing is logged. -/
theorem State.Delivered.of_fits {s t : State} {bs : List Byte} (h : s.Delivered bs t) (hrx : s.uart.rx = [])
    (hfits : bs.length ≤ uartRxCap) : t.uart.rx = bs ∧ t.uartLog = s.uartLog := by
  constructor
  · rw [h.rx_eq, hrx, List.nil_append, List.take_of_length_le hfits]
  · rw [h.log_eq, hrx, List.length_nil, Nat.sub_zero, List.drop_eq_nil_of_le hfits, List.map_nil, List.append_nil]

/-! ### Reads of DATA (R203) -/

/-- As many reads as there are bytes at the front of RX take those bytes and leave the rest. -/
theorem execAll_uartRdData (bs : List Byte) {s : State} {q : List Byte} (hrx : s.uart.rx = bs ++ q) :
    ∃ t, execAll (bs.map fun _ => Instr.uartRdData) s = .next t ∧ t.uart.rx = q ∧ t.uartLog = s.uartLog := by
  induction bs generalizing s with
  | nil => exact ⟨s, rfl, hrx, rfl⟩
  | cons b bs ih =>
    have hexec := exec_uartRdData_cons (q := bs ++ q) hrx
    obtain ⟨t, hrest, hq, hlog⟩ := ih (s := ((s.setUartRx (bs ++ q)).recomputeUart).withAnswer _) rfl
    exact ⟨t, (execAll_cons_next _ hexec).trans hrest, hq, hlog⟩

/-- Settles O21: RX holds the burst whole, and the reads of `bs` leave `b` at its front. -/
theorem uartBytesComeOutInDeliveryOrder : Obligations.UartBytesComeOutInDeliveryOrder := by
  intro bs cs b s hrx hfits
  obtain ⟨m, hdeliver, hdelivered⟩ := execAll_uartEvRxDeliver (bs ++ b :: cs) (s := s) (by simp [hrx])
  obtain ⟨hheld, hmlog⟩ := hdelivered.of_fits hrx hfits
  obtain ⟨t, hread, hrest, htlog⟩ := execAll_uartRdData bs hheld
  have hparams : t.params = s.params := (execAll_params hread).trans (execAll_params hdeliver)
  refine ⟨t, _, (execAll_append_of_next _ hdeliver).trans hread, exec_uartRdData_cons hrest, ?_, rfl,
    htlog.trans hmlog⟩
  rw [← hparams]
  rfl

end Sys2Proof.Machine
end

section
/-! SUPPORT. The status words as lists of flags with their places: in a well-formed layout no two fields share a bit
(R28), so each bit of a status word shows its own flag, and a CTRL read shows the stored word beside it (R140). -/

namespace Sys2Proof

/-! ### The bits of the fields of a list -/

/-- The places of a field's bits. -/
def Field.bits (f : Field) : List Nat := List.range' f.lsb f.width

theorem Field.mem_bits {f : Field} {j : Nat} : j ∈ f.bits ↔ f.lsb ≤ j ∧ j < f.lsb + f.width := List.mem_range'_1

theorem fieldsWf_right {fs gs : List Field} (h : fieldsWf (fs ++ gs) = true) : fieldsWf gs = true := by
  induction fs with
  | nil => exact h
  | cons f fs ih =>
    rw [List.cons_append, fieldsWf, Bool.and_eq_true] at h
    exact ih h.2

theorem fieldsWf_nodup_bits {fs : List Field} (h : fieldsWf fs = true) : (fs.flatMap Field.bits).Nodup := by
  refine List.nodup_flatMap.2 ⟨fun f _ => List.nodup_range', (fieldsWf_pairwise h).imp fun {f g} hd j hf hg => ?_⟩
  simp only [Field.disjoint, Bool.or_eq_true, decide_eq_true_eq] at hd
  rw [Field.mem_bits] at hf hg
  omega

theorem getLsbD_unionMask_of_mem_bits {fs : List Field} (h : fieldsWf fs = true) {j : Nat}
    (hj : j ∈ fs.flatMap Field.bits) : (unionMask fs).getLsbD j = true := by
  obtain ⟨f, hf, hjf⟩ := List.mem_flatMap.1 hj
  obtain ⟨-, hword⟩ := fieldsWf_inWord h hf
  obtain ⟨hge, hlt⟩ := Field.mem_bits.1 hjf
  rw [getLsbD_unionMask, List.any_eq_true]
  exact ⟨f, hf, by simp [Field.getLsbD_mask, hge, hlt, Nat.lt_of_lt_of_le hlt hword]⟩

/-! ### Words of flags -/

/-- The word that shows each flag at its place. -/
def flagWord (flags : List (Nat × Bool)) : Word :=
  flags.foldr (fun f w => flagBit f.1 f.2 ||| w) 0#32

theorem getLsbD_flagWord {flags : List (Nat × Bool)} {j : Nat} :
    (flagWord flags).getLsbD j = true ↔ j < 32 ∧ (j, true) ∈ flags := by
  induction flags with
  | nil => simp [flagWord]
  | cons f fs ih =>
    obtain ⟨i, b⟩ := f
    change (flagBit i b ||| flagWord fs).getLsbD j = true ↔ _
    rw [BitVec.getLsbD_or, Bool.or_eq_true, ih, getLsbD_flagBit, List.mem_cons, Prod.mk.injEq]
    simp only [Bool.and_eq_true, decide_eq_true_eq, eq_comm (a := true)]
    tauto

/-- Where no two flags share a place, each bit shows its own flag. -/
theorem getLsbD_flagWord_of_mem {flags : List (Nat × Bool)} (hnodup : (flags.map Prod.fst).Nodup) {i : Nat} {b : Bool}
    (hi : i < 32) (hmem : (i, b) ∈ flags) : (flagWord flags).getLsbD i = b := by
  rw [Bool.eq_iff_iff, getLsbD_flagWord]
  constructor
  · rintro ⟨-, htrue⟩
    exact (Prod.mk.inj (List.inj_on_of_nodup_map hnodup hmem htrue rfl)).2
  · rintro rfl
    exact ⟨hi, hmem⟩

/-- Flags at the places of a well-formed list of read-only fields: beside a stored word, each bit still shows its own
flag. -/
theorem getLsbD_or_flagWord {rw ro : List Field} (h : fieldsWf (rw ++ ro) = true) {flags : List (Nat × Bool)}
    (hplaces : flags.map Prod.fst = ro.flatMap Field.bits) {v : Word} (hv : v &&& ~~~unionMask rw = 0#32)
    {i : Nat} {b : Bool} (hmem : (i, b) ∈ flags) : (v ||| flagWord flags).getLsbD i = b := by
  have hro := fieldsWf_right h
  have hbit : (unionMask ro).getLsbD i = true :=
    getLsbD_unionMask_of_mem_bits hro (hplaces ▸ List.mem_map_of_mem (f := Prod.fst) hmem)
  rw [getLsbD_or_of_romask (fieldsWf_append_disjoint h i) hv hbit]
  exact getLsbD_flagWord_of_mem (hplaces ▸ fieldsWf_nodup_bits hro) (BitVec.lt_of_getLsbD hbit) hmem

/-- Inside the read-only mask, a stored word beside a status word shows the status. -/
theorem or_and_romask {v st wm rm : Word} (hd : ∀ k, ¬(wm.getLsbD k = true ∧ rm.getLsbD k = true))
    (hv : v &&& ~~~wm = 0#32) (hs : ∀ k, st.getLsbD k = true → rm.getLsbD k = true) : (v ||| st) &&& rm = st := by
  refine word_ext fun j _ => ?_
  rw [BitVec.getLsbD_and]
  cases hr : rm.getLsbD j with
  | true => rw [Bool.and_true, getLsbD_or_of_romask (hd j) hv hr]
  | false =>
    have hst : ¬st.getLsbD j = true := fun hj => Bool.false_ne_true (hr.symm.trans (hs j hj))
    rw [Bool.and_false, Bool.eq_false_of_not_eq_true hst]

/-- The size field that holds 3, as flags. -/
theorem three_shiftLeft_eq_flagBits (lsb : Nat) : 3#32 <<< lsb = bit lsb ||| bit (lsb + 1) := by
  refine word_ext fun j _ => ?_
  rw [BitVec.getLsbD_or, getLsbD_three_shiftLeft, getLsbD_bit, getLsbD_bit, Bool.and_or_distrib_left]

namespace Machine

/-! ### What a CTRL read answers (R140) -/

theorem answer_of_uartRdCtrl {s t : State} (h : exec .uartRdCtrl s = .next t) :
    t.answer = .value (s.uart.cfg ||| uartStatus s.params.uart s.uart) := by
  obtain rfl := Host.Outcome.next.inj ((exec_uartRdCtrl s).symm.trans h)
  rfl

theorem answer_of_spiRdCtrl {s t : State} (h : exec .spiRdCtrl s = .next t) :
    t.answer = .value (s.spi.cfg ||| spiStatus s.params.spi s.spi) := by
  obtain rfl := Host.Outcome.next.inj ((exec_spiRdCtrl s).symm.trans h)
  rfl

/-! ### The UART's status word (R147) -/

/-- The flags of R141 to R146 with their places. -/
def uartFlags (l : UartLayout) (rx : List Byte) : List (Nat × Bool) :=
  [(l.rxNempty, decide (0 < rx.length)), (l.rxHalf, decide (16 ≤ rx.length)), (l.rxFull, decide (rx.length = 32)),
    (l.txEmpty, true), (l.txNhalf, true), (l.txFull, false), (l.rxOver, false), (l.txBusy, false)]

theorem uartStatus_eq_flagWord (l : UartLayout) (u : Uart) : uartStatus l u = flagWord (uartFlags l u.rx) := by
  rw [uartStatus_spec]
  simp [Spec.uartStatus, flagWord, uartFlags, flagBit, BitVec.or_assoc]

theorem getLsbD_uartCtrl {p : Params} {u : Uart} (hwf : p.uart.wf = true) (hok : u.Ok p) {i : Nat} {b : Bool}
    (hmem : (i, b) ∈ uartFlags p.uart u.rx) : (u.cfg ||| uartStatus p.uart u).getLsbD i = b := by
  rw [uartStatus_eq_flagWord]
  exact getLsbD_or_flagWord hwf rfl hok.cfg_writable hmem

/-- The status word under UART_REF, by occupancy. -/
theorem uartStatus_reference {rx : List Byte} (h : rx.length ≤ 32) :
    Spec.uartStatus UartLayout.reference rx =
      if rx.length = 0 then 0x00180000#32 else if rx.length ≤ 15 then 0x00190000#32
      else if rx.length ≤ 31 then 0x001B0000#32 else 0x001F0000#32 := by
  rw [Spec.uartStatus]
  generalize rx.length = n at h
  revert n
  decide

/-- Settles O17: the machine's status word is R147's, and under UART_REF R147's is the table. -/
theorem uartStatusByOccupancyUnderUartRef : Obligations.UartStatusByOccupancyUnderUartRef := by
  have hanswer : ∀ s t : State, exec .uartRdCtrl s = .next t →
      t.answer = .value (s.uart.cfg ||| Spec.uartStatus s.params.uart s.uart.rx) :=
    fun s t ht => uartStatus_spec s.params.uart s.uart ▸ answer_of_uartRdCtrl ht
  refine ⟨hanswer, fun s t href hfits ht => ?_⟩
  rw [hanswer s t ht, href, uartStatus_reference hfits]

/-- Settles O18: each status field is one of the flags, and the stored word lies in the writable mask. -/
theorem uartCtrlReadShowsEachField : Obligations.UartCtrlReadShowsEachField := by
  intro s t hwf hok ht
  have hshows {i : Nat} {b : Bool} := getLsbD_uartCtrl (i := i) (b := b) hwf hok
  refine ⟨_, answer_of_uartRdCtrl ht, hshows ?_, hshows ?_, hshows ?_, hshows ?_, hshows ?_, hshows ?_, hshows ?_,
    hshows ?_, or_and_wmask (UartLayout.masks_disjoint hwf) hok.cfg_writable (uartStatus_in_romask _ _)⟩
  all_goals simp [uartFlags]

/-! ### The SPI's status word (R154) -/

/-- The flags of R148 to R152 and the four bits of the size field of R153, with their places. -/
def spiFlags (l : SpiLayout) (rx tx : List Byte) : List (Nat × Bool) :=
  [(l.rxAvail, decide (0 < rx.length)), (l.txEmpty, decide (tx.length = 0)), (l.txNhalf, decide (tx.length < 4)),
    (l.txFull, decide (tx.length = 8)), (l.fifoSize.lsb, true), (l.fifoSize.lsb + 1, true),
    (l.fifoSize.lsb + 2, false), (l.fifoSize.lsb + 3, false), (l.busy, decide (0 < tx.length))]

theorem spiStatus_eq_flagWord (l : SpiLayout) (s : Spi) : spiStatus l s = flagWord (spiFlags l s.rx s.tx) := by
  rw [spiStatus_spec]
  simp [Spec.spiStatus, flagWord, spiFlags, flagBit, three_shiftLeft_eq_flagBits, BitVec.or_assoc]

theorem SpiLayout.fieldsWf_of_wf {l : SpiLayout} (h : l.wf = true) :
    fieldsWf (l.rwFields ++ l.roFields) = true ∧ l.fifoSize.width = 4 := by
  simpa [SpiLayout.wf] using h

theorem spiFlags_places {l : SpiLayout} (hwidth : l.fifoSize.width = 4) (rx tx : List Byte) :
    (spiFlags l rx tx).map Prod.fst = l.roFields.flatMap Field.bits := by
  simp [spiFlags, SpiLayout.roFields, Field.bits, bitField, hwidth, List.range']

theorem getLsbD_spiCtrl {l : SpiLayout} {c : Spi} (hwf : l.wf = true) (hcfg : c.cfg &&& ~~~l.wmask = 0#32) {i : Nat}
    {b : Bool} (hmem : (i, b) ∈ spiFlags l c.rx c.tx) : (c.cfg ||| spiStatus l c).getLsbD i = b := by
  obtain ⟨hfields, hwidth⟩ := SpiLayout.fieldsWf_of_wf hwf
  rw [spiStatus_eq_flagWord]
  exact getLsbD_or_flagWord hfields (spiFlags_places hwidth _ _) hcfg hmem

/-- The size field of the word a CTRL read answers (R153). -/
theorem spiCtrl_fifoSize {l : SpiLayout} {c : Spi} (hwf : l.wf = true) (hcfg : c.cfg &&& ~~~l.wmask = 0#32) :
    (c.cfg ||| spiStatus l c).extractLsb' l.fifoSize.lsb 4 = 3#4 := by
  refine BitVec.eq_of_getLsbD_eq fun k hk => ?_
  have hmem : (l.fifoSize.lsb + k, (3#4).getLsbD k) ∈ spiFlags l c.rx c.tx := by
    interval_cases k <;> simp [spiFlags]
  rw [BitVec.getLsbD_extractLsb', getLsbD_spiCtrl hwf hcfg hmem, decide_eq_true hk, Bool.true_and]

/-- The status word under SPI_REF with TX empty, as it is between two events (R250). -/
theorem spiStatus_reference (rx : List Byte) :
    Spec.spiStatus SpiLayout.reference rx [] = if rx = [] then 0x01860000#32 else 0x01870000#32 := by
  cases rx with
  | nil => decide
  | cons b q =>
    rw [Spec.spiStatus, if_pos (List.length_pos_of_ne_nil (List.cons_ne_nil b q)), if_neg (List.cons_ne_nil b q)]
    decide

/-- Settles O27: the machine's status word is R154's, and 0x878F0000 is the read-only mask of SPI_REF. -/
theorem spiStatusUnderSpiRef : Obligations.SpiStatusUnderSpiRef := by
  refine ⟨fun s t ht => spiStatus_spec s.params.spi s.spi ▸ answer_of_spiRdCtrl ht, fun s t href hok ht => ?_⟩
  have hwf : s.params.spi.wf = true := href ▸ by decide
  have hmask : s.params.spi.romask = 0x878F0000#32 := href ▸ by decide
  have hstatus : spiStatus s.params.spi s.spi = if s.spi.rx = [] then 0x01860000#32 else 0x01870000#32 := by
    rw [spiStatus_spec, href, hok.tx_empty, spiStatus_reference]
  rw [← hstatus, ← hmask]
  exact ⟨_, answer_of_spiRdCtrl ht, rfl,
    or_and_romask (SpiLayout.masks_disjoint hwf) hok.cfg_writable (spiStatus_in_romask hwf _)⟩

/-- Settles O28: each status field is one of the flags, and the stored word lies in the writable mask. -/
theorem spiCtrlReadShowsEachField : Obligations.SpiCtrlReadShowsEachField := by
  intro s t hwf hcfg ht
  have hshows {i : Nat} {b : Bool} := getLsbD_spiCtrl (i := i) (b := b) hwf hcfg
  refine ⟨_, answer_of_spiRdCtrl ht, hshows ?_, hshows ?_, hshows ?_, hshows ?_, hshows ?_,
    spiCtrl_fifoSize hwf hcfg, or_and_wmask (SpiLayout.masks_disjoint hwf) hcfg (spiStatus_in_romask hwf _)⟩
  all_goals simp [spiFlags]

/-! ### A CTRL write keeps the status (R155) -/

theorem answer_of_uartWrCtrl_uartRdCtrl {v : Word} {s t u : State} (hwrite : exec (.uartWrCtrl v) s = .next t)
    (hread : exec .uartRdCtrl t = .next u) :
    u.answer = .value ((v &&& s.params.uart.wmask) ||| uartStatus s.params.uart s.uart) := by
  obtain rfl := Host.Outcome.next.inj ((exec_uartWrCtrl v s).symm.trans hwrite)
  exact answer_of_uartRdCtrl hread

theorem answer_of_spiWrCtrl_spiRdCtrl {v : Word} {s t u : State} (hwrite : exec (.spiWrCtrl v) s = .next t)
    (hread : exec .spiRdCtrl t = .next u) :
    u.answer = .value ((v &&& s.params.spi.wmask) ||| spiStatus s.params.spi s.spi) := by
  obtain rfl := Host.Outcome.next.inj ((exec_spiWrCtrl v s).symm.trans hwrite)
  exact answer_of_spiRdCtrl hread

/-- Settles O33: the read-only bits before the write are the status, which the write does not change. -/
theorem ctrlReadAfterCtrlWrite : Obligations.CtrlReadAfterCtrlWrite := by
  constructor
  · intro v s t u x hwf hok hold hwrite hnew
    have hro := or_and_romask (UartLayout.masks_disjoint hwf) hok.cfg_writable (uartStatus_in_romask _ s.uart)
    exact ⟨_, _, answer_of_uartRdCtrl hold, answer_of_uartWrCtrl_uartRdCtrl hwrite hnew, congrArg _ hro.symm⟩
  · intro v s t u x hwf hok hold hwrite hnew
    have hro := or_and_romask (SpiLayout.masks_disjoint hwf) hok.cfg_writable (spiStatus_in_romask hwf s.spi)
    exact ⟨_, _, answer_of_spiRdCtrl hold, answer_of_spiWrCtrl_spiRdCtrl hwrite hnew, congrArg _ hro.symm⟩

end Machine

end Sys2Proof
end

section
/-! SUPPORT. The interrupt engine (43_interrupt_engine.md): the level the SPI's line carries between events, and what a
CTRL write leaves on a line, by the (condition, enable) pairs that are active. -/

namespace Sys2Proof.Machine

/-! ### The SPI's line between events (R164) -/

/-- With TX empty both TX conditions are true, so their enables alone decide. -/
theorem Spec.spiLevel_nil (l : SpiLayout) (cfg : Word) (rx : List Byte) :
    Spec.spiLevel l cfg rx [] =
      (cfg.getLsbD l.irqTxEmpty || cfg.getLsbD l.irqTxNhalf ||
        (cfg.getLsbD l.irqRxAvail && decide (0 < rx.length))) := by
  simp [Spec.spiLevel, Bool.or_comm, Bool.or_left_comm]

/-- Every event leaves the SPI as it is between two events, whichever device the event is on. -/
theorem Spi.Ok.of_exec {i : Instr} {s t : State} (hok : s.spi.Ok s.params) (h : exec i s = .next t) :
    t.spi.Ok t.params := by
  cases hdev : i.device with
  | uart =>
    obtain ⟨u, out, log, a, hexec, -⟩ := exec_uart hdev s
    obtain rfl := Host.Outcome.next.inj (hexec.symm.trans h)
    exact hok
  | spi =>
    obtain ⟨c, xfers, log, responses, draws, a, hexec, hafter⟩ := exec_spi hdev s
    obtain rfl := Host.Outcome.next.inj (hexec.symm.trans h)
    exact hafter.ok hok

/-- Settles O37: an event leaves the SPI with its line at the level function and with TX empty. -/
theorem spiIrqLevelBetweenEvents : Obligations.SpiIrqLevelBetweenEvents := by
  intro i s t hs h
  have hok := hs.spi_ok.of_exec h
  have hlevel := hok.irq_level.trans (spiIrqLevel_spec _ _)
  refine ⟨hlevel, ?_⟩
  rw [hlevel, hok.tx_empty, Spec.spiLevel_nil]

/-! ### A CTRL write and the active pairs (R168) -/

theorem Spec.uartLevel_eq_false_iff {l : UartLayout} {cfg : Word} {rx : List Byte} :
    Spec.uartLevel l cfg rx = false ↔
      ¬ cfg.getLsbD l.irqTxEmpty = true ∧ ¬ (cfg.getLsbD l.irqRxNempty = true ∧ 0 < rx.length) := by
  simp [Spec.uartLevel]

theorem Spec.spiLevel_eq_false_iff {l : SpiLayout} {cfg : Word} {rx tx : List Byte} :
    Spec.spiLevel l cfg rx tx = false ↔
      ¬ (cfg.getLsbD l.irqRxAvail = true ∧ 0 < rx.length) ∧
        ¬ (cfg.getLsbD l.irqTxEmpty = true ∧ tx.length = 0) ∧
        ¬ (cfg.getLsbD l.irqTxNhalf = true ∧ tx.length < 4) := by
  simp [Spec.spiLevel, and_assoc]

theorem getLsbD_left_of_and {v m : Word} {k : Nat} (h : (v &&& m).getLsbD k = true) : v.getLsbD k = true :=
  (Bool.and_eq_true_iff.1 (BitVec.getLsbD_and.symm.trans h)).1

/-- Storing only the writable bits of the word can make no pair active. -/
theorem exec_uartWrCtrl_irq_eq_false {v : Word} {s : State} (h : Spec.uartLevel s.params.uart v s.uart.rx = false) :
    ∃ t, exec (.uartWrCtrl v) s = .next t ∧ t.uart.irq = false := by
  obtain ⟨htx, hrx⟩ := Spec.uartLevel_eq_false_iff.1 h
  exact ⟨_, exec_uartWrCtrl v s, (uartIrqLevel_spec _ _).trans (Spec.uartLevel_eq_false_iff.2
    ⟨mt getLsbD_left_of_and htx, mt (And.imp_left getLsbD_left_of_and) hrx⟩)⟩

theorem exec_spiWrCtrl_irq_eq_false {v : Word} {s : State}
    (h : Spec.spiLevel s.params.spi v s.spi.rx s.spi.tx = false) :
    ∃ t, exec (.spiWrCtrl v) s = .next t ∧ t.spi.irq = false := by
  obtain ⟨havail, hempty, hhalf⟩ := Spec.spiLevel_eq_false_iff.1 h
  exact ⟨_, exec_spiWrCtrl v s, (spiIrqLevel_spec _ _).trans (Spec.spiLevel_eq_false_iff.2
    ⟨mt (And.imp_left getLsbD_left_of_and) havail, mt (And.imp_left getLsbD_left_of_and) hempty,
      mt (And.imp_left getLsbD_left_of_and) hhalf⟩)⟩

/-- Settles O38: under the written word the pair is not enabled, and every other pair is as inactive as before. -/
theorem clearingTheOnlyActiveEnableDeassertsTheLine : Obligations.ClearingTheOnlyActiveEnableDeassertsTheLine := by
  intro v s
  have hcleared {enable : Bool} {condition : Prop} (h : enable = false) : ¬ (enable = true ∧ condition) :=
    not_and_of_not_left _ (ne_true_of_eq_false h)
  refine ⟨fun _ htx hclear hkeep => ?_, fun hrx hclear hkeep => ?_,
    fun _ hempty hhalf hclear hkeepEmpty hkeepHalf => ?_, fun _ havail hhalf hclear hkeepAvail hkeepHalf => ?_,
    fun _ havail hempty hclear hkeepAvail hkeepEmpty => ?_⟩
  · exact exec_uartWrCtrl_irq_eq_false (Spec.uartLevel_eq_false_iff.2 ⟨hkeep ▸ htx, hcleared hclear⟩)
  · exact exec_uartWrCtrl_irq_eq_false
      (Spec.uartLevel_eq_false_iff.2 ⟨ne_true_of_eq_false hclear, hkeep ▸ hrx⟩)
  · exact exec_spiWrCtrl_irq_eq_false
      (Spec.spiLevel_eq_false_iff.2 ⟨hcleared hclear, hkeepEmpty ▸ hempty, hkeepHalf ▸ hhalf⟩)
  · exact exec_spiWrCtrl_irq_eq_false
      (Spec.spiLevel_eq_false_iff.2 ⟨hkeepAvail ▸ havail, hcleared hclear, hkeepHalf ▸ hhalf⟩)
  · exact exec_spiWrCtrl_irq_eq_false
      (Spec.spiLevel_eq_false_iff.2 ⟨hkeepAvail ▸ havail, hkeepEmpty ▸ hempty, hcleared hclear⟩)

end Sys2Proof.Machine
end

section
/-! SUPPORT. The chip-select router (44_chip_select.md): the levels an event leaves on the lines, and how many of them
are low. -/

namespace Sys2Proof.Machine

/-! ### The levels by line (R181, R182, R183, R186) -/

theorem Spec.csLines_getElem? (p : Params) (cfg : Word) {k : Nat} (hk : k < p.ncs) :
    (Spec.csLines p cfg)[k]? = some (Spec.csLine p.spi cfg k) := by
  rw [Spec.csLines, List.getElem?_map, List.getElem?_range hk, Option.map_some]

/-- An index with no line selects nothing (R183). -/
theorem csSelected_eq_none_of_ncs_le {p : Params} {cfg : Word}
    (h : p.ncs ≤ Spec.csIndex (cfg.getLsbD p.spi.csSel2) (cfg.getLsbD p.spi.csSel1) (cfg.getLsbD p.spi.csSel0)) :
    csSelected p cfg = none := by
  refine Option.eq_none_iff_forall_ne_some.2 fun k hk => ?_
  obtain ⟨-, hlt, rfl⟩ := csSelected_eq_some_iff.1 hk
  exact absurd hlt (Nat.not_lt.2 h)

/-- The levels start all high, and at most one line is then set low (R184, R186). -/
theorem csLevels_low_le_one (p : Params) (cfg : Word) :
    ((csLevels p cfg).filter (fun level => !level)).length ≤ 1 := by
  rw [← List.countP_eq_length_filter]
  cases hsel : csSelected p cfg with
  | none => simp [csLevels, hsel, List.countP_replicate]
  | some k =>
    simp [csLevels, hsel, List.countP_set, List.countP_replicate, csSelected_lt hsel]

/-! ### The levels after an event (R41, R184) -/

/-- An event leaves the router's levels if it is on the SPI, which it then recomputes, or if the SPI was as it is between
two events. -/
theorem exec_spi_cs {i : Instr} {s t : State} (h : exec i s = .next t) (hi : i.device = .spi ∨ s.spi.Ok s.params) :
    t.spi.cs = csLevels t.params t.spi.cfg := by
  rcases hi with hdev | hok
  · obtain ⟨c, xfers, log, responses, draws, a, hexec, hafter⟩ := exec_spi hdev s
    obtain rfl := Host.Outcome.next.inj (hexec.symm.trans h)
    exact hafter.cs_levels
  · exact (hok.of_exec h).cs_levels

/-- Settles O39: the levels are the spec's lines, and an index with no line selects nothing. -/
theorem chipSelectLinesFollowThePriorityTable : Obligations.ChipSelectLinesFollowThePriorityTable := by
  intro i s t hdev h
  rw [exec_spi_cs h (.inl hdev)]
  refine ⟨csLevels_length _ _, fun k hk => ?_, fun hnone => ?_⟩
  · rw [csLevels_spec, Spec.csLines_getElem? _ _ hk]
  · rw [csLevels, csSelected_eq_none_of_ncs_le hnone]

/-- Settles O40: an event leaves the router's levels, of which at most one is low. -/
theorem atMostOneChipSelectLineIsLow : Obligations.AtMostOneChipSelectLineIsLow := by
  intro i s t h hi
  rw [exec_spi_cs h (hi.imp_right State.Inv.spi_ok)]
  exact ⟨csLevels_length _ _, csLevels_low_le_one _ _⟩

end Sys2Proof.Machine
end

section
/-! SUPPORT. The UART's operations (45_uart_ops.md): the bytes that spell each event, the whole state it leaves, and
that of `cfg` only the two interrupt enables steer anything but a CTRL read. -/

namespace Sys2Proof.Machine

/-! ### The bytes of an event (R80, R86) -/

/-- A larger window decodes the events that a smaller one does. -/
theorem Instr.wf_mono {i : Instr} {m n : Nat} (hmn : m ≤ n) (h : i.wf m = true) : i.wf n = true := by
  have hin {off : Offset} (hoff : inWindow m off = true) : inWindow n off = true :=
    decide_eq_true ((of_decide_eq_true hoff).trans_le hmn)
  generalize hdev : i.device = dev
  rcases wf_cases hdev h with ⟨off, w, hoff, rfl⟩ | ⟨off, w, v, hoff, rfl⟩ | ⟨evt, b, hevt⟩
  · exact (decodeRead_encodedAs dev w (hin hoff)).wf
  · exact (decodeWrite_encodedAs dev w v (hin hoff)).wf
  · exact (decodeHostEvent_encodedAs n hevt).wf

/-- Its descriptor and payload spell an event of the smallest window that holds both registers. -/
theorem spells_of_wf {i : Instr} (h : i.wf 8 = true) : Spells i.device i.descriptor i.payload i := by
  intro regionSize rest hsize
  rw [← List.append_assoc]
  exact decodeOfEncodeGivesTheInstruction regionSize i rest (Instr.wf_mono hsize h)

/-! ### The state after a UART event (R104, R105) -/

/-- The state with what a UART event leaves: `cfg` and RX with the line at their level, the output history, the log and
the answer. -/
def State.afterUart (s : State) (cfg : Word) (rx out : List Byte) (log : List LogRecord) (a : Answer) : State :=
  { s with uart := { cfg := cfg, rx := rx, irq := Spec.uartLevel s.params.uart cfg rx }
           uartOut := out, uartLog := log, answer := a }

/-- Where a UART between two events keeps `cfg` and RX, its line stays as it is (R165). -/
theorem State.afterUart_of_ok {s : State} (h : s.uart.Ok s.params) (out : List Byte) (log : List LogRecord)
    (a : Answer) :
    s.afterUart s.uart.cfg s.uart.rx out log a = { s with uartOut := out, uartLog := log, answer := a } := by
  rw [State.afterUart, ← uartIrqLevel_spec, ← h.irq_level]

theorem State.recomputeUart_withAnswer (s : State) (a : Answer) :
    (s.recomputeUart).withAnswer a = s.afterUart s.uart.cfg s.uart.rx s.uartOut s.uartLog a := by
  rw [State.recomputeUart_eq]
  rfl

theorem uartCtrlValue_spec (l : UartLayout) (u : Uart) : uartCtrlValue l u = u.cfg ||| Spec.uartStatus l u.rx := by
  rw [uartCtrlValue, uartStatus_spec]

theorem not_fifoIsFull (cap : Nat) (q : List Byte) : (!fifoIsFull cap q) = decide (q.length ≠ cap) := by
  rw [Bool.eq_iff_iff, Bool.not_eq_true', ← Bool.not_eq_true, fifoIsFull_iff, decide_eq_true_iff]

section After
variable (s : State)

theorem exec_uartRdCtrl_after :
    exec .uartRdCtrl s = .next (s.afterUart s.uart.cfg s.uart.rx s.uartOut s.uartLog
      (.value (s.uart.cfg ||| Spec.uartStatus s.params.uart s.uart.rx))) := by
  rw [exec_uartRdCtrl, State.recomputeUart_withAnswer, uartCtrlValue_spec]

theorem exec_uartWrCtrl_after (v : Word) :
    exec (.uartWrCtrl v) s =
      .next (s.afterUart (v &&& s.params.uart.wmask) s.uart.rx s.uartOut s.uartLog .nothing) := by
  rw [exec_uartWrCtrl, State.recomputeUart_withAnswer]
  rfl

theorem exec_uartWrData_after (v : Word) :
    exec (.uartWrData v) s =
      .next (s.afterUart s.uart.cfg s.uart.rx (s.uartOut ++ [dataByte v]) s.uartLog .nothing) := by
  rw [exec_uartWrData, State.recomputeUart_withAnswer]
  rfl

theorem exec_uartRdInvalid_after (off : Offset) (w : Width) :
    exec (.uartRdInvalid off w) s = .next (s.afterUart s.uart.cfg s.uart.rx s.uartOut
      (s.uartLog ++ [.guestProtocolError (.badRead off w)]) (.value 0#32)) := by
  rw [exec_uartRdInvalid, State.recomputeUart_withAnswer]
  rfl

theorem exec_uartWrInvalid_after (off : Offset) (w : Width) (v : Word) :
    exec (.uartWrInvalid off w v) s = .next (s.afterUart s.uart.cfg s.uart.rx s.uartOut
      (s.uartLog ++ [.guestProtocolError (.badWrite off w v)]) .nothing) := by
  rw [exec_uartWrInvalid, State.recomputeUart_withAnswer]
  rfl

theorem exec_uartEvReset_after :
    exec .uartEvReset s = .next (s.afterUart 0#32 [] s.uartOut s.uartLog .nothing) := by
  rw [exec_uartEvReset, State.recomputeUart_withAnswer]
  rfl

theorem exec_uartQCanReceive_after :
    exec .uartQCanReceive s = .next (s.afterUart s.uart.cfg s.uart.rx s.uartOut s.uartLog
      (.canReceive (decide (s.uart.rx.length ≠ uartRxCap)))) := by
  rw [exec_uartQCanReceive, State.recomputeUart_withAnswer, not_fifoIsFull]

variable {s}

theorem exec_uartRdData_empty_after (h : s.uart.rx = []) :
    exec .uartRdData s = .next (s.afterUart s.uart.cfg s.uart.rx s.uartOut
      (s.uartLog ++ [.guestProtocolError .dataReadEmpty]) (.value (dataInfo s.params))) := by
  rw [exec_uartRdData_empty h, State.recomputeUart_withAnswer]
  rfl

theorem exec_uartRdData_cons_after {b : Byte} {q : List Byte} (h : s.uart.rx = b :: q) :
    exec .uartRdData s =
      .next (s.afterUart s.uart.cfg q s.uartOut s.uartLog (.value (uartDataWord s.params b))) := by
  rw [exec_uartRdData_cons h, State.recomputeUart_withAnswer]
  rfl

theorem exec_uartEvRxDeliver_room_after (b : Byte) (h : s.uart.rx.length < uartRxCap) :
    exec (.uartEvRxDeliver b) s =
      .next (s.afterUart s.uart.cfg (s.uart.rx ++ [b]) s.uartOut s.uartLog .nothing) := by
  rw [exec_uartEvRxDeliver_room b h, State.recomputeUart_withAnswer]
  rfl

theorem exec_uartEvRxDeliver_full_after (b : Byte) (h : uartRxCap ≤ s.uart.rx.length) :
    exec (.uartEvRxDeliver b) s =
      .next (s.afterUart s.uart.cfg s.uart.rx s.uartOut (s.uartLog ++ [.transportOverflow b]) .nothing) := by
  rw [exec_uartEvRxDeliver_full b h, State.recomputeUart_withAnswer]
  rfl

end After

/-! ### Each instruction -/

/-- Settles O10: neither the stored word nor the status has a reserved bit. -/
theorem uartRdCtrlAnswersCfgOrStatus : Obligations.UartRdCtrlAnswersCfgOrStatus := by
  refine ⟨spells_of_wf (i := .uartRdCtrl) rfl, fun s => ⟨exec_uartRdCtrl_after s, fun hok => ?_, fun hok => ?_⟩⟩
  · rw [exec_uartRdCtrl_after, State.afterUart_of_ok hok]
  · rw [← uartStatus_spec]
    exact or_and_resmask hok.cfg_writable (uartStatus_in_romask _ _)

/-- Settles O11: a CTRL write leaves the stored word, with the line at the level that it gives. -/
theorem uartWrCtrlStoresTheWritableBits : Obligations.UartWrCtrlStoresTheWritableBits :=
  ⟨fun v => spells_of_wf (i := .uartWrCtrl v) rfl, fun v s => exec_uartWrCtrl_after s v⟩

/-- Settles O12: a read pops where RX holds a byte, and otherwise only logs. -/
theorem uartRdDataPopsTheOldestByte : Obligations.UartRdDataPopsTheOldestByte := by
  refine ⟨spells_of_wf (i := .uartRdData) rfl,
    fun s => ⟨fun b q => exec_uartRdData_cons_after, fun hrx => ?_, fun hrx hok => ?_⟩⟩
  · rw [exec_uartRdData_empty_after hrx, ← hrx]
    rfl
  · rw [exec_uartRdData_empty_after hrx, State.afterUart_of_ok hok]
    rfl

/-- Settles O13: the byte goes to the output history, and RX is not touched. -/
theorem uartWrDataSendsTheLowByte : Obligations.UartWrDataSendsTheLowByte := by
  refine ⟨fun v => spells_of_wf (i := .uartWrData v) rfl, fun v s => ?_⟩
  rw [exec_uartWrData_after, dataByte_eq]
  exact ⟨rfl, fun hok => by rw [State.afterUart_of_ok hok]⟩

/-- Settles O14: the push finds room, or it reports the drop. -/
theorem uartDeliveryIsPushedOrDropped : Obligations.UartDeliveryIsPushedOrDropped :=
  ⟨fun b => spells_of_wf (i := .uartEvRxDeliver b) rfl, fun b _ =>
    ⟨exec_uartEvRxDeliver_room_after b, exec_uartEvRxDeliver_full_after b⟩⟩

/-- Settles O15: between events RX is within its capacity, so it has room exactly when it is not full. -/
theorem canReceiveTellsWhetherADeliveryIsKept : Obligations.CanReceiveTellsWhetherADeliveryIsKept := by
  refine ⟨spells_of_wf (i := .uartQCanReceive) rfl, fun s => ⟨exec_uartQCanReceive_after s, fun hok => ?_⟩⟩
  have hroom : s.uart.rx.length ≠ uartRxCap ↔ s.uart.rx.length < 32 := hok.rx_fits.lt_iff_ne.symm
  have hquery : exec .uartQCanReceive s =
      .next { s with answer := .canReceive (decide (s.uart.rx.length < 32)) } := by
    rw [exec_uartQCanReceive_after, State.afterUart_of_ok hok, decide_eq_decide.2 hroom]
  refine ⟨hquery, fun b => ?_⟩
  rw [hquery]
  by_cases hlt : s.uart.rx.length < 32
  · exact ⟨_, exec_uartEvRxDeliver_room_after b hlt, by simp [hlt, State.afterUart]⟩
  · exact ⟨_, exec_uartEvRxDeliver_full_after b (Nat.not_lt.1 hlt), by simp [hlt, State.afterUart]⟩

/-! ### Sequences of DATA writes (R209) -/

/-- Settles O19: one write appends its low byte, so by induction a list of writes appends its low bytes in order. -/
theorem uartBytesLeaveInWriteOrder : Obligations.UartBytesLeaveInWriteOrder := by
  intro vs
  induction vs with
  | nil => exact fun s => ⟨s, rfl, (List.append_nil _).symm, rfl, rfl, rfl, rfl⟩
  | cons v vs ih =>
    intro s
    obtain ⟨t, hrest, hout, hkept⟩ :=
      ih (s.afterUart s.uart.cfg s.uart.rx (s.uartOut ++ [dataByte v]) s.uartLog .nothing)
    refine ⟨t, (execAll_cons_next _ (exec_uartWrData_after s v)).trans hrest, hout.trans ?_, hkept⟩
    rw [List.map_cons, ← dataByte_eq]
    exact List.append_assoc ..

/-! ### What `cfg` steers (R207, R208) -/

/-- Of `cfg`, the level reads the two interrupt enables alone. -/
theorem Spec.uartLevel_congr {l : UartLayout} {cfg cfg' : Word} (rx : List Byte)
    (hrx : cfg'.getLsbD l.irqRxNempty = cfg.getLsbD l.irqRxNempty)
    (htx : cfg'.getLsbD l.irqTxEmpty = cfg.getLsbD l.irqTxEmpty) :
    Spec.uartLevel l cfg' rx = Spec.uartLevel l cfg rx := by
  rw [Spec.uartLevel, Spec.uartLevel, hrx, htx]

/-- Where two configurations agree in a bit, so does what an instruction makes of them. -/
theorem getLsbD_uartCfgAfter_congr {l : UartLayout} {cfg cfg' : Word} {k : Nat} (i : Instr)
    (h : cfg'.getLsbD k = cfg.getLsbD k) :
    (uartCfgAfter l cfg' i).getLsbD k = (uartCfgAfter l cfg i).getLsbD k := by
  cases i
  case uartWrCtrl v => rfl
  case uartEvReset => rfl
  all_goals exact h

/-- Whatever `cfg` holds, a UART event other than a CTRL read leaves the same RX, output history and log, and gives the
same answer. -/
theorem exec_uart_setUartCfg {i : Instr} (hi : i.device = .uart) (hread : i ≠ .uartRdCtrl) (s : State) :
    ∃ rx out log a, ∀ cfg, exec i (s.setUartCfg cfg) =
      .next (s.afterUart (uartCfgAfter s.params.uart cfg i) rx out log a) := by
  cases i
  case uartRdCtrl => exact absurd rfl hread
  case uartWrCtrl v => exact ⟨s.uart.rx, s.uartOut, s.uartLog, _, fun _ => exec_uartWrCtrl_after _ v⟩
  case uartWrData v => exact ⟨s.uart.rx, s.uartOut ++ [_], s.uartLog, _, fun _ => exec_uartWrData_after _ v⟩
  case uartRdInvalid off w =>
    exact ⟨s.uart.rx, s.uartOut, s.uartLog ++ [_], _, fun _ => exec_uartRdInvalid_after _ off w⟩
  case uartWrInvalid off w v =>
    exact ⟨s.uart.rx, s.uartOut, s.uartLog ++ [_], _, fun _ => exec_uartWrInvalid_after _ off w v⟩
  case uartEvReset => exact ⟨[], s.uartOut, s.uartLog, _, fun _ => exec_uartEvReset_after _⟩
  case uartQCanReceive =>
    exact ⟨s.uart.rx, s.uartOut, s.uartLog, .canReceive (decide (s.uart.rx.length ≠ uartRxCap)),
      fun _ => exec_uartQCanReceive_after _⟩
  case uartRdData =>
    cases hq : s.uart.rx with
    | nil =>
      exact ⟨s.uart.rx, s.uartOut, s.uartLog ++ [_], .value (dataInfo s.params),
        fun cfg => exec_uartRdData_empty_after (s := s.setUartCfg cfg) hq⟩
    | cons b q =>
      exact ⟨q, s.uartOut, s.uartLog, .value (uartDataWord s.params b),
        fun cfg => exec_uartRdData_cons_after (s := s.setUartCfg cfg) hq⟩
  case uartEvRxDeliver b =>
    by_cases hroom : s.uart.rx.length < uartRxCap
    · exact ⟨s.uart.rx ++ [b], s.uartOut, s.uartLog, _,
        fun cfg => exec_uartEvRxDeliver_room_after (s := s.setUartCfg cfg) b hroom⟩
    · exact ⟨s.uart.rx, s.uartOut, s.uartLog ++ [_], _,
        fun cfg => exec_uartEvRxDeliver_full_after (s := s.setUartCfg cfg) b (Nat.not_lt.1 hroom)⟩
  all_goals cases hi

/-- Settles O51: `cfg` has no part in what a UART event leaves but in `cfg` itself and in the line, which reads the two
enables alone; an SPI event does the same beside any UART. -/
theorem uartStoredFieldsGateNothing : Obligations.UartStoredFieldsGateNothing := by
  intro i s cfg hread hrx htx
  cases hi : i.device with
  | uart =>
    obtain ⟨rx, out, log, a, hexec⟩ := exec_uart_setUartCfg hi hread s
    exact ⟨_, _, hexec s.uart.cfg, hexec cfg, rfl, Spec.uartLevel_congr rx (getLsbD_uartCfgAfter_congr i hrx)
      (getLsbD_uartCfgAfter_congr i htx), rfl, rfl, rfl⟩
  | spi =>
    obtain ⟨e, a, hexec⟩ := exec_spi_effect hi s
    exact ⟨_, _, hexec s (.refl s), hexec (s.setUartCfg cfg) ⟨rfl, rfl, rfl, rfl⟩, rfl, rfl, rfl, rfl, rfl⟩

end Sys2Proof.Machine
end

section
/-! SUPPORT. The SPI's operations (46_spi_ops.md): the whole state that each event leaves, which exchanges DATA writes
make and where the responses go, and that of `cfg` only seven bits steer anything but a CTRL read. -/

namespace Sys2Proof.Machine

/-! ### Reads and writes of CTRL, reads of DATA (R240, R241, R242) -/

theorem spiCtrlValue_spec (l : SpiLayout) (c : Spi) : spiCtrlValue l c = c.cfg ||| Spec.spiStatus l c.rx c.tx := by
  rw [spiCtrlValue, spiStatus_spec]

/-- Settles O22: the pins are at their levels between two events; then, with TX empty, each TX flag is one value. -/
theorem spiRdCtrlAnswersCfgOrStatus : Obligations.SpiRdCtrlAnswersCfgOrStatus := by
  refine ⟨spells_of_wf (i := .spiRdCtrl) rfl, fun s => ⟨?_, fun hok => ?_, fun hok hwf => ?_⟩⟩
  · rw [exec_spiRdCtrl, State.recomputeSpi_eq, spiCtrlValue_spec]
    rfl
  · rw [exec_spiRdCtrl, State.recomputeSpi_of_ok hok, spiCtrlValue_spec]
    rfl
  · have hshows {i : Nat} {b : Bool} := getLsbD_spiCtrl (i := i) (b := b) hwf hok.cfg_writable
    rw [← spiStatus_spec]
    refine ⟨hshows ?_, hshows ?_, hshows ?_, hshows ?_, spiCtrl_fifoSize hwf hok.cfg_writable,
      or_and_resmask hok.cfg_writable (spiStatus_in_romask hwf _)⟩
    all_goals simp [spiFlags, hok.tx_empty]

/-- Between two events the lines are a function of `cfg` (R41). -/
theorem Spi.Ok.cs_eq_of_cfg_eq {p : Params} {c c' : Spi} (h : c.Ok p) (h' : c'.Ok p) (hcfg : c'.cfg = c.cfg) :
    c'.cs = c.cs := by
  rw [h.cs_levels, h'.cs_levels, hcfg]

theorem Spi.Ok.cs_eq_of_exec {i : Instr} {s t : State} (hok : s.spi.Ok s.params) (h : exec i s = .next t)
    (hcfg : t.spi.cfg = s.spi.cfg) : t.spi.cs = s.spi.cs :=
  hok.cs_eq_of_cfg_eq (exec_params h ▸ hok.of_exec h) hcfg

/-- Settles O23: an event that moves a line has changed `cfg`. -/
theorem spiWrCtrlStoresAndRoutes : Obligations.SpiWrCtrlStoresAndRoutes := by
  refine ⟨fun v => spells_of_wf (i := .spiWrCtrl v) rfl, fun v s => ?_, fun i s t hs h hmoved => ?_⟩
  · rw [exec_spiWrCtrl, State.recomputeSpi_eq]
    rfl
  · exact (onlyCtrlWritesAndResetsChangeCfg i s t h).2 (mt (hs.spi_ok.cs_eq_of_exec h) hmoved)

/-- Settles O24: a read pops where RX holds a byte, and otherwise only logs. -/
theorem spiRdDataPopsTheOldestByte : Obligations.SpiRdDataPopsTheOldestByte := by
  refine ⟨spells_of_wf (i := .spiRdData) rfl, fun s => ⟨fun b q hrx => ?_, fun hrx => ?_, fun hrx hok => ?_⟩⟩
  · rw [exec_spiRdData_cons hrx, State.recomputeSpi_eq]
    rfl
  · rw [exec_spiRdData_empty hrx, State.logSpi_recomputeSpi_withAnswer, hrx]
  · rw [exec_spiRdData_empty hrx, State.logSpi_recomputeSpi_withAnswer_of_ok _ _ hok]

/-! ### TX at an event boundary (R250) -/

/-- Settles O47: the events that leave TX alone keep it empty, a reset clears it, and a DATA write drains it. -/
theorem txIsEmptyAtEveryBoundary : Obligations.TxIsEmptyAtEveryBoundary := by
  refine ⟨rfl, fun _ => rfl, fun i s t h hi => ?_⟩
  rcases hi with htx | rfl | ⟨v, rfl⟩
  · cases hdev : i.device with
    | uart =>
      obtain ⟨u, out, log, a, hexec, -⟩ := exec_uart hdev s
      cases hexec.symm.trans h
      exact htx
    | spi =>
      obtain ⟨c, xfers, log, responses, draws, a, hexec, hafter⟩ := exec_spi hdev s
      cases hexec.symm.trans h
      exact hafter.tx_empty htx
  · cases (exec_spiEvReset s).symm.trans h
    rfl
  · cases (exec_spiWrData v s).symm.trans h
    exact State.flush_spi_tx _

/-! ### Writes of DATA (R243 to R246) -/

theorem fifoPush_fst (cap : Nat) (q : List Byte) (b : Byte) :
    (fifoPush cap q b).1 = if q.length < cap then q ++ [b] else q :=
  apply_ite Prod.fst ..

/-- Settles O25: with TX empty the flush is one exchange, whose response is the one that the present state gives. -/
theorem spiWrDataExchangesOneByte : Obligations.SpiWrDataExchangesOneByte := by
  refine ⟨fun v => spells_of_wf (i := .spiWrData v) rfl, fun v s hok => ⟨s.spiResponse (dataByte v),
    fun r0 rest hsched => State.spiResponse_of_scheduled hsched _, ?_⟩⟩
  have hcs : Spec.csLines s.params s.spi.cfg = s.spi.cs := (csLevels_spec _ _).symm.trans hok.cs_levels.symm
  rw [exec_spiWrData_of_tx_empty v hok.tx_empty, State.recomputeSpi_eq, State.exchange_eq]
  simp only [fifoPush_fst, hcs, hok.tx_empty, ← dataByte_eq]
  rfl

/-- `t` is `s` after the exchanges `xs`, as far as the SPI's history, RX, `cfg` and log go. -/
structure State.Exchanged (s : State) (xs : List SpiXfer) (t : State) : Prop where
  xfers_eq : t.spiXfers = s.spiXfers ++ xs
  levels : ∀ x ∈ xs, x.cs = s.spi.cs
  rx_eq : s.spi.rx.length ≤ spiRxCap → t.spi.rx = (s.spi.rx ++ xs.map SpiXfer.response).take spiRxCap
  log_eq : s.spi.rx.length ≤ spiRxCap →
    t.spiLog = s.spiLog ++ ((xs.map SpiXfer.response).drop (spiRxCap - s.spi.rx.length)).map LogRecord.spiRxDrop
  cfg_eq : t.spi.cfg = s.spi.cfg

theorem State.Exchanged.nil (s : State) : s.Exchanged [] s where
  xfers_eq := (List.append_nil _).symm
  levels := nofun
  rx_eq hfits := by rw [List.map_nil, List.append_nil, List.take_of_length_le hfits]
  log_eq _ := by simp
  cfg_eq := rfl

/-- Exchanges compose while the lines stay: cutting in between loses and logs the same responses. -/
theorem State.Exchanged.append {s t u : State} {xs ys : List SpiXfer} (h : s.Exchanged xs t)
    (hcs : t.spi.cs = s.spi.cs) (h' : t.Exchanged ys u) : s.Exchanged (xs ++ ys) u := by
  have hfits (hs : s.spi.rx.length ≤ spiRxCap) : t.spi.rx.length ≤ spiRxCap :=
    h.rx_eq hs ▸ List.length_take_le ..
  refine ⟨?_, fun x hx => ?_, fun hs => ?_, fun hs => ?_, h'.cfg_eq.trans h.cfg_eq⟩
  · rw [h'.xfers_eq, h.xfers_eq, List.append_assoc]
  · exact (List.mem_append.1 hx).elim (h.levels x) fun hy => (h'.levels x hy).trans hcs
  · rw [h'.rx_eq (hfits hs), h.rx_eq hs, take_take_append, List.append_assoc, List.map_append]
  · have hroom : spiRxCap - t.spi.rx.length = spiRxCap - s.spi.rx.length - (xs.map SpiXfer.response).length := by
      rw [h.rx_eq hs, List.length_take, List.length_append]
      omega
    rw [h'.log_eq (hfits hs), h.log_eq hs, hroom, List.append_assoc, ← List.map_append, ← List.drop_append,
      ← List.map_append]

/-- The state with the byte pushed on TX, or dropped when TX is full (R243). -/
def State.pushTx (s : State) (b : Byte) : State := s.setSpiTx (fifoPush spiTxCap s.spi.tx b).1

theorem exec_spiWrData_pushTx (v : Word) (s : State) :
    exec (.spiWrData v) s = .next ((((s.pushTx (dataByte v)).flush).recomputeSpi).withAnswer .nothing) :=
  exec_spiWrData v s

/-- A DATA write exchanges what TX holds after the push of its byte. -/
theorem exec_spiWrData_exchanged (v : Word) (s : State) :
    ∃ t xs, exec (.spiWrData v) s = .next t ∧ s.Exchanged xs t ∧
      xs.map SpiXfer.sent = (fifoPush spiTxCap s.spi.tx (dataByte v)).1 := by
  obtain ⟨xs, hxfers, hsent, hlevels, hfifo⟩ :=
    State.flushBytes_records (s.pushTx (dataByte v)).spi.tx (s.pushTx (dataByte v))
  obtain ⟨-, -, -, -, -, -, hcfg, -⟩ :=
    State.flushBytes_frame (s.pushTx (dataByte v)).spi.tx (s.pushTx (dataByte v))
  exact ⟨_, xs, exec_spiWrData_pushTx v s,
    ⟨hxfers, hlevels, fun hfits => (hfifo hfits).1, fun hfits => (hfifo hfits).2, hcfg⟩, hsent⟩

/-- Settles O26: the flush exchanges what TX holds after the push, and leaves all but the SPI alone. -/
theorem spiWrDataDrainsTxInOrder : Obligations.SpiWrDataDrainsTxInOrder := by
  intro v s
  obtain ⟨t, xs, hexec, hex, hsent⟩ := exec_spiWrData_exchanged v s
  obtain ⟨c, xfers, log, responses, draws, a, hexec', hafter⟩ := exec_spi (i := .spiWrData v) rfl s
  have htx := txIsEmptyAtEveryBoundary.2.2 _ s t hexec (.inr (.inr ⟨v, rfl⟩))
  have hcs : c.cs = Spec.csLines s.params s.spi.cfg := by
    rw [hafter.cs_levels, hafter.cfg_eq, csLevels_spec]
    rfl
  rw [fifoPush_fst, dataByte_eq] at hsent
  cases hexec'.symm.trans hexec
  exact ⟨_, xs, hexec', hex.xfers_eq, hsent, hex.levels, fun hfits => ⟨hex.rx_eq hfits, hex.log_eq hfits⟩, htx,
    hex.cfg_eq, hcs, rfl, rfl, rfl, rfl, rfl⟩

/-- From a state between two events, a burst of DATA writes exchanges its bytes in order and ends between two events. -/
theorem execAll_spiWrData (vs : List Word) {s : State} (hok : s.spi.Ok s.params) :
    ∃ t xs, execAll (vs.map Instr.spiWrData) s = .next t ∧ s.Exchanged xs t ∧
      xs.map SpiXfer.sent = vs.map dataByte ∧ t.spi.Ok t.params := by
  induction vs generalizing s with
  | nil => exact ⟨s, [], rfl, .nil s, rfl, hok⟩
  | cons v vs ih =>
    obtain ⟨m, xs, hexec, hex, hsent⟩ := exec_spiWrData_exchanged v s
    obtain ⟨t, ys, hrest, hex', hsent', hok'⟩ := ih (hok.of_exec hexec)
    refine ⟨t, xs ++ ys, (execAll_cons_next _ hexec).trans hrest,
      hex.append (hok.cs_eq_of_exec hexec hex.cfg_eq) hex', ?_, hok'⟩
    rw [List.map_append, hsent, hsent', hok.tx_empty]
    rfl

/-- Settles O29: a burst leaves `cfg`, and so the lines, alone. -/
theorem spiBurstKeepsTheFirst8Responses : Obligations.SpiBurstKeepsTheFirst8Responses := by
  intro vs s hok
  obtain ⟨t, xs, hexec, hex, hsent, hok'⟩ := execAll_spiWrData vs hok
  have hcs : t.spi.cs = s.spi.cs := hok.cs_eq_of_cfg_eq (execAll_params hexec ▸ hok') hex.cfg_eq
  exact ⟨t, xs, hexec, hex.xfers_eq, hsent.trans (List.map_congr_left fun v _ => dataByte_eq v), hex.levels,
    hex.rx_eq hok.rx_fits, hex.log_eq hok.rx_fits, hcs, hex.cfg_eq, hok'.tx_empty⟩

/-! ### What `cfg` steers (R248, R249) -/

/-- The bits of `cfg` that an event other than a CTRL read looks at: the interrupt enables, the select bits and the
chip-select enable. -/
def spiSteeringBits (l : SpiLayout) : List Nat :=
  [l.irqRxAvail, l.irqTxEmpty, l.irqTxNhalf, l.csSel0, l.csSel1, l.csSel2, l.csEn]

/-- The two configurations agree in the bits that steer something. -/
def SpiSteersAlike (l : SpiLayout) (cfg cfg' : Word) : Prop :=
  ∀ k ∈ spiSteeringBits l, cfg'.getLsbD k = cfg.getLsbD k

section SteersAlike
variable {l : SpiLayout} {cfg cfg' : Word}

theorem SpiSteersAlike.spiLevel (h : SpiSteersAlike l cfg cfg') (rx tx : List Byte) :
    Spec.spiLevel l cfg' rx tx = Spec.spiLevel l cfg rx tx := by
  simp only [SpiSteersAlike, spiSteeringBits, List.forall_mem_cons] at h
  obtain ⟨havail, hempty, hhalf, -⟩ := h
  rw [Spec.spiLevel, Spec.spiLevel, havail, hempty, hhalf]

theorem SpiSteersAlike.csLine (h : SpiSteersAlike l cfg cfg') : Spec.csLine l cfg' = Spec.csLine l cfg := by
  simp only [SpiSteersAlike, spiSteeringBits, List.forall_mem_cons] at h
  obtain ⟨-, -, -, hsel0, hsel1, hsel2, hen, -⟩ := h
  funext k
  rw [Spec.csLine, Spec.csLine, hsel0, hsel1, hsel2, hen]

/-- Where two configurations agree, so does what an instruction makes of them. -/
theorem SpiSteersAlike.spiCfgAfter (h : SpiSteersAlike l cfg cfg') (i : Instr) :
    SpiSteersAlike l (spiCfgAfter l cfg i) (spiCfgAfter l cfg' i) := by
  cases i
  case spiWrCtrl v => exact fun _ _ => rfl
  case spiEvReset => exact fun _ _ => rfl
  all_goals exact h

end SteersAlike

theorem State.exchange_setSpiCfg (s : State) (cfg : Word) (b : Byte) :
    (s.setSpiCfg cfg).exchange b = (s.exchange b).setSpiCfg cfg := by
  rw [State.exchange_eq, State.exchange_eq]
  rfl

/-- A flush does not look at `cfg` (R248, R249). -/
theorem State.flushBytes_setSpiCfg (q : List Byte) (s : State) (cfg : Word) :
    State.flushBytes q (s.setSpiCfg cfg) = (State.flushBytes q s).setSpiCfg cfg := by
  induction q generalizing s with
  | nil => rfl
  | cons b q ih => exact (congrArg _ ((s.setSpiTx q).exchange_setSpiCfg cfg b)).trans (ih _)

theorem State.flush_setSpiCfg (s : State) (cfg : Word) : (s.setSpiCfg cfg).flush = s.flush.setSpiCfg cfg :=
  State.flushBytes_setSpiCfg s.spi.tx s cfg

/-- Whatever `cfg` holds, an SPI event other than a CTRL read comes to the same state `m`, but for `cfg`, before it
recomputes the pins, and gives the same answer. -/
theorem exec_spi_setSpiCfg {i : Instr} (hi : i.device = .spi) (hread : i ≠ .spiRdCtrl) (s : State) :
    ∃ (m : State) (a : Answer), m.params = s.params ∧ ∀ cfg, exec i (s.setSpiCfg cfg) =
      .next (((m.setSpiCfg (spiCfgAfter s.params.spi cfg i)).recomputeSpi).withAnswer a) := by
  cases i
  case spiRdCtrl => exact absurd rfl hread
  case spiWrCtrl v => exact ⟨s, _, rfl, fun _ => exec_spiWrCtrl v _⟩
  case spiRdInvalid off w => exact ⟨s.logSpi _, _, rfl, fun _ => exec_spiRdInvalid off w _⟩
  case spiWrInvalid off w v => exact ⟨s.logSpi _, _, rfl, fun _ => exec_spiWrInvalid off w v _⟩
  case spiEvReset => exact ⟨(s.setSpiRx []).setSpiTx [], _, rfl, fun _ => exec_spiEvReset _⟩
  case spiRdData =>
    cases hq : s.spi.rx with
    | nil => exact ⟨s.logSpi _, _, rfl, fun cfg => exec_spiRdData_empty (s := s.setSpiCfg cfg) hq⟩
    | cons b q => exact ⟨s.setSpiRx q, _, rfl, fun cfg => exec_spiRdData_cons (s := s.setSpiCfg cfg) hq⟩
  case spiWrData v =>
    refine ⟨(s.pushTx (dataByte v)).flush, .nothing, (State.flushBytes_frame _ _).1, fun cfg => ?_⟩
    rw [exec_spiWrData_pushTx]
    exact congrArg (fun t : State => Host.Outcome.next (t.recomputeSpi.withAnswer .nothing))
      ((s.pushTx (dataByte v)).flush_setSpiCfg cfg)
  all_goals cases hi

/-- Settles O52: `cfg` has no part in what an SPI event leaves but in `cfg` itself and in the pins, which read the
steering bits alone; a UART event does the same beside any SPI controller. -/
theorem spiStoredFieldsGateNothing : Obligations.SpiStoredFieldsGateNothing := by
  intro i s cfg hread hsame
  cases hi : i.device with
  | uart =>
    obtain ⟨e, a, hexec⟩ := exec_uart_effect hi s
    exact ⟨_, _, hexec s (.refl s), hexec (s.setSpiCfg cfg) ⟨rfl, rfl⟩, rfl, rfl, rfl, rfl, rfl, rfl, rfl⟩
  | spi =>
    obtain ⟨m, a, hparams, hexec⟩ := exec_spi_setSpiCfg hi hread s
    have halike : SpiSteersAlike m.params.spi (spiCfgAfter s.params.spi s.spi.cfg i) (spiCfgAfter s.params.spi cfg i) :=
      hparams ▸ SpiSteersAlike.spiCfgAfter hsame i
    simp only [State.recomputeSpi_eq] at hexec
    exact ⟨_, _, hexec s.spi.cfg, hexec cfg, rfl, rfl, congrArg (List.map · _) halike.csLine,
      halike.spiLevel _ _, rfl, rfl, rfl⟩

end Sys2Proof.Machine
end

section
/-! SUPPORT. What can go wrong (60_exceptions.md): an event always completes, a step can only be refused, and a block with
no chip-select line is not constructed. -/

namespace Sys2Proof.Machine

/-! ### Events and steps (R127, R300) -/

/-- Settles O46: an instruction changes the record, the histories and the log of its own device and the answer. -/
theorem everyEventCompletes : Obligations.EveryEventCompletes := by
  intro i s
  cases hi : i.device with
  | uart =>
    obtain ⟨u', out, log, a, hexec, -⟩ := exec_uart hi s
    exact ⟨_, hexec, rfl, rfl, rfl, rfl, rfl, rfl⟩
  | spi =>
    obtain ⟨c', xfers, log, responses, draws, a, hexec, -⟩ := exec_spi hi s
    exact ⟨_, hexec, rfl, rfl, rfl, rfl, rfl, rfl⟩

/-- An instruction completes on every instance, even one that does not exist: exec completes in every state. -/
theorem execAt_completes (inst : Nat) (i : Instr) (s : State) : ∃ t, execAt inst i s = .next t := by
  obtain ⟨m, hexec, -⟩ := everyEventCompletes i (s.focus i.device inst)
  exact ⟨_, execAt_next hexec⟩

/-- Settles O9: a step that is not refused is idle, a detach, or an instruction, which completes. -/
theorem noStepFaults : Obligations.NoStepFaults := by
  intro s f hfault
  rcases step_cases s with ⟨-, hs⟩ | ⟨r, rest, e, -, hs⟩ | ⟨r, rest, inst, i, -, -, hs⟩ | ⟨dev, inst, rest, -, -, hs⟩
  · cases hs.symm.trans hfault
  · cases hs.symm.trans hfault
  · obtain ⟨t, hexec⟩ := execAt_completes inst i { s with pending := rest }
    cases (hs.trans hexec).symm.trans hfault
  · cases hs.symm.trans hfault

/-! ### Construction (R26, R303) -/

theorem construct_of_nonpos (p : Params) {n : Int} (hn : n ≤ 0) : construct p n = .error .noChipSelectLine :=
  dif_neg (by omega)

theorem construct_of_pos (p : Params) {n : Int} (hn : 1 ≤ n.toNat) :
    construct p n = .ok (State.attach { p with ncs := ⟨n.toNat, hn⟩ }) := dif_pos hn

/-- Settles O45: what is constructed is the state at attach, and the line count of a configuration is free. -/
theorem constructionRejectsNoLinesAndAttachesReset : Obligations.ConstructionRejectsNoLinesAndAttachesReset := by
  refine ⟨fun p n => construct_of_nonpos p, fun s => s.params.ncs.property, fun p n hn => ?_⟩
  exact ⟨_, construct_of_pos p (by omega), Int.toNat_of_nonneg hn.le, rfl, rfl, rfl, rfl, fun hwf => State.attach_inv hwf⟩

end Sys2Proof.Machine
end

section
/-! SUPPORT. Reset and detach (70_reset_and_hazards.md): both leave the device's record as at attach; and what a step
does to the block's instances, of which it changes at most one, an attached one. -/

namespace Sys2Proof.Machine

/-! ### Reset (R341, R343) -/

/-- A reset leaves the UART's record as at attach. -/
theorem exec_uartEvReset_atAttach (s : State) :
    exec .uartEvReset s = .next (State.withAnswer { s with uart := Uart.atAttach } .nothing) := by
  rw [← (Uart.atAttach_ok s.params).recompute_eq]
  exact exec_uartEvReset s

/-- A reset leaves the SPI controller's record as at attach. -/
theorem exec_spiEvReset_atAttach (s : State) :
    exec .spiEvReset s = .next (State.withAnswer { s with spi := Spi.atAttach s.params.ncs } .nothing) := by
  rw [← (Spi.atAttach_ok s.params).recompute_eq]
  exact exec_spiEvReset s

/-- Settles O16: a reset leaves the record as at attach, and its descriptor spells a host event of either device. -/
theorem resetClearsTheDevice : Obligations.ResetClearsTheDevice :=
  ⟨spells_of_wf (i := .uartEvReset) rfl, spells_of_wf (i := .spiEvReset) rfl,
    fun s => ⟨exec_uartEvReset_atAttach s, exec_spiEvReset_atAttach s⟩⟩

/-- The word that a CTRL read answers at attach, under UART_REF. -/
theorem uartCtrlValue_reference_atAttach : uartCtrlValue UartLayout.reference Uart.atAttach = 0x00180000#32 := by
  decide

/-- The word that a CTRL read answers at attach, under SPI_REF, for any number of lines. -/
theorem spiCtrlValue_reference_atAttach (n : LineCount) :
    spiCtrlValue SpiLayout.reference (Spi.atAttach n) = 0x01860000#32 := by
  rw [spiCtrlValue_spec]
  exact (congrArg _ (spiStatus_reference [])).trans BitVec.zero_or

/-- Settles O48: after a reset the record is as at attach, so CTRL reads as there and DATA is read from an empty RX. -/
theorem readsRightAfterReset : Obligations.ReadsRightAfterReset := by
  intro s huart hspi
  refine ⟨fun t ht => ?_, fun t ht => ?_⟩
  · obtain rfl := Host.Outcome.next.inj ((exec_uartEvReset_atAttach s).symm.trans ht)
    refine ⟨rfl, rfl, ⟨_, exec_uartRdCtrl _, ?_⟩, _, exec_uartRdData_empty rfl, rfl, rfl⟩
    exact congrArg Answer.value (huart ▸ uartCtrlValue_reference_atAttach)
  · obtain rfl := Host.Outcome.next.inj ((exec_spiEvReset_atAttach s).symm.trans ht)
    refine ⟨rfl, rfl, fun level => List.eq_of_mem_replicate, ⟨_, exec_spiRdCtrl _, ?_⟩,
      _, exec_spiRdData_empty rfl, rfl, rfl⟩
    exact congrArg Answer.value (hspi ▸ spiCtrlValue_reference_atAttach s.params.ncs)

/-! ### Detach (R340) -/

section Detach
variable (s : State) (dev : Device) (inst : Nat)

@[simp] theorem State.detach_pending : (s.detach dev inst).pending = s.pending := by
  rw [State.detach, State.focus_pending]
  cases dev <;> exact s.focus_pending ..

@[simp] theorem State.detach_answer : (s.detach dev inst).answer = s.answer := by
  rw [State.detach, State.focus_answer]
  cases dev <;> exact s.focus_answer ..

/-- No request still to come has a part in what is attached. -/
theorem State.attachedAt_withPending (rest : List Request) :
    State.attachedAt { s with pending := rest } dev inst = s.attachedAt dev inst := by
  cases dev <;> cases inst <;> rfl

end Detach

/-- A detach leaves the UART under its number as at attach, and attached no more. -/
theorem State.detach_uart_set {s : State} {inst : Nat} {u : UartInstance} (hu : s.uartAt inst = some u) :
    (s.detach .uart inst).uarts = s.uarts.set inst { u with dev := Uart.atAttach, attached := false } ∧
      (s.detach .uart inst).spis = s.spis := by
  rw [State.detach_uart_eq_setUartAt hu]
  exact ⟨s.setUartAt_uarts inst _, s.setUartAt_spis inst _⟩

/-- A detach leaves the SPI controller under its number as at attach, and attached no more. -/
theorem State.detach_spi_set {s : State} {inst : Nat} {c : SpiInstance} (hc : s.spiAt inst = some c) :
    (s.detach .spi inst).spis = s.spis.set inst { c with dev := Spi.atAttach c.params.ncs, attached := false } ∧
      (s.detach .spi inst).uarts = s.uarts := by
  rw [State.detach_spi_eq_setSpiAt hc]
  exact ⟨s.setSpiAt_spis inst _, s.setSpiAt_uarts inst _⟩

theorem step_detach {s : State} {dev : Device} {inst : Nat} {rest : List Request}
    (hp : s.pending = .detach dev inst :: rest) (ha : s.isAttached dev inst = true) :
    step s = .next (State.detach { s with pending := rest } dev inst) := by
  simp [step, fetch_cons hp, fetchRequest_detach rest ha]

theorem State.attachedAt_of_uartAt {s : State} {inst : Nat} {u : UartInstance} (hu : s.uartAt inst = some u) :
    s.attachedAt .uart inst = some u.attached := congrArg (Option.map UartInstance.attached) hu

theorem State.attachedAt_of_spiAt {s : State} {inst : Nat} {c : SpiInstance} (hc : s.spiAt inst = some c) :
    s.attachedAt .spi inst = some c.attached := congrArg (Option.map SpiInstance.attached) hc

/-- An event for a detached instance, or a second detach of it, is refused. -/
theorem step_of_detached {s : State} {dev : Device} {inst : Nat} (h : s.attachedAt dev inst = some false)
    {r : Request} {bytes : List Byte} (hr : r = .event dev inst bytes ∨ r = .detach dev inst) (more : List Request) :
    step { s with pending := r :: more } = .refused .detached := by
  rw [← s.attachedAt_withPending dev inst (r :: more)] at h
  have ha : State.isAttached { s with pending := r :: more } dev inst = false :=
    Bool.eq_false_iff.2 fun ha => by cases h.symm.trans (State.isAttached_iff.1 ha)
  have habsent : State.absence { s with pending := r :: more } dev inst = .detached := by
    rw [State.absence, State.hasInstance_eq_isSome, h]
    rfl
  obtain ⟨hevent, hdetach⟩ := fetchRequest_absent bytes more ha
  rw [habsent] at hevent hdetach
  rcases hr with rfl | rfl
  · exact step_of_refused rfl hevent
  · exact step_of_refused rfl hdetach

/-- Settles O58: a detach sets one entry of its device's list of instances, and what is attached no more is refused. -/
theorem detachDestroysTheInstance : Obligations.DetachDestroysTheInstance := by
  intro s inst rest
  refine ⟨fun u hu ha hp => ?_, fun c hc ha hp => ?_⟩
  · obtain ⟨huarts, hspis⟩ := State.detach_uart_set (s := { s with pending := rest }) hu
    have hself := State.uartAt_of_uarts_set_self (s := s) huarts hu
    have hgone := State.attachedAt_of_uartAt hself
    exact ⟨_, step_detach hp (State.isAttached_uart.2 ⟨u, hu, ha⟩), State.detach_pending .., State.detach_answer ..,
      hself, fun j hj => State.uartAt_of_uarts_set_ne (s := s) huarts hj,
      fun j => State.spiAt_of_spis_eq (s := s) hspis, fun r bytes hr => step_of_detached hgone hr⟩
  · obtain ⟨hspis, huarts⟩ := State.detach_spi_set (s := { s with pending := rest }) hc
    have hself := State.spiAt_of_spis_set_self (s := s) hspis hc
    have hgone := State.attachedAt_of_spiAt hself
    exact ⟨_, step_detach hp (State.isAttached_spi.2 ⟨c, hc, ha⟩), State.detach_pending .., State.detach_answer ..,
      hself, fun j hj => State.spiAt_of_spis_set_ne (s := s) hspis hj,
      fun j => State.uartAt_of_uarts_eq (s := s) huarts, fun r bytes hr => step_of_detached hgone hr⟩

/-! ### What a step does to the instances (R74, R340) -/

/-- What may become of the block's instances in one step: they all stay, or one attached UART or one attached SPI
controller is set and the others stay. -/
inductive OneAttachedChanges (s t : State) : Prop
  | none (huarts : t.uarts = s.uarts) (hspis : t.spis = s.spis)
  | uart {inst : Nat} {u u' : UartInstance} (hu : s.uartAt inst = some u) (ha : u.attached = true)
      (huarts : t.uarts = s.uarts.set inst u') (hspis : t.spis = s.spis)
  | spi {inst : Nat} {c c' : SpiInstance} (hc : s.spiAt inst = some c) (ha : c.attached = true)
      (hspis : t.spis = s.spis.set inst c') (huarts : t.uarts = s.uarts)

theorem execAt_changes_one {s t : State} {inst : Nat} {i : Instr} (hi : s.isAttached i.device inst = true)
    (h : execAt inst i s = .next t) : OneAttachedChanges s t := by
  cases hdev : i.device with
  | uart =>
    obtain ⟨u, hu, ha⟩ := State.isAttached_uart.1 (hdev ▸ hi)
    obtain ⟨t', u', hexec, -, huarts, hspis, -⟩ := execAt_uart_set hdev hu
    obtain rfl := Host.Outcome.next.inj (hexec.symm.trans h)
    exact .uart hu ha huarts hspis
  | spi =>
    obtain ⟨c, hc, ha⟩ := State.isAttached_spi.1 (hdev ▸ hi)
    obtain ⟨t', c', hexec, -, hspis, huarts, -⟩ := execAt_spi_set hdev hc
    obtain rfl := Host.Outcome.next.inj (hexec.symm.trans h)
    exact .spi hc ha hspis huarts

theorem detach_changes_one {s : State} {dev : Device} {inst : Nat} (h : s.isAttached dev inst = true) :
    OneAttachedChanges s (s.detach dev inst) := by
  cases dev with
  | uart =>
    obtain ⟨u, hu, ha⟩ := State.isAttached_uart.1 h
    obtain ⟨huarts, hspis⟩ := State.detach_uart_set hu
    exact .uart hu ha huarts hspis
  | spi =>
    obtain ⟨c, hc, ha⟩ := State.isAttached_spi.1 h
    obtain ⟨hspis, huarts⟩ := State.detach_spi_set hc
    exact .spi hc ha hspis huarts

/-- The request that left the queue has no part in it. -/
theorem OneAttachedChanges.of_withPending {s t : State} {rest : List Request}
    (h : OneAttachedChanges { s with pending := rest } t) : OneAttachedChanges s t := by
  cases h with
  | none huarts hspis => exact .none huarts hspis
  | uart hu ha huarts hspis => exact .uart hu ha huarts hspis
  | spi hc ha hspis huarts => exact .spi hc ha hspis huarts

section Detached
variable {s t : State} {inst : Nat}

/-- What changes is attached, so it is not a detached UART. -/
theorem OneAttachedChanges.uartAt_of_detached (h : OneAttachedChanges s t) {u : UartInstance}
    (hu : s.uartAt inst = some u) (hdetached : u.attached = false) : t.uartAt inst = some u := by
  rw [← hu]
  cases h with
  | none huarts hspis => exact State.uartAt_of_uarts_eq huarts
  | spi hc hattached hspis huarts => exact State.uartAt_of_uarts_eq huarts
  | uart hu' hattached huarts hspis =>
    refine State.uartAt_of_uarts_set_ne huarts ?_
    rintro rfl
    cases hu.symm.trans hu'
    exact Bool.false_ne_true (hdetached.symm.trans hattached)

theorem OneAttachedChanges.spiAt_of_detached (h : OneAttachedChanges s t) {c : SpiInstance}
    (hc : s.spiAt inst = some c) (hdetached : c.attached = false) : t.spiAt inst = some c := by
  rw [← hc]
  cases h with
  | none huarts hspis => exact State.spiAt_of_spis_eq hspis
  | uart hu hattached huarts hspis => exact State.spiAt_of_spis_eq hspis
  | spi hc' hattached hspis huarts =>
    refine State.spiAt_of_spis_set_ne hspis ?_
    rintro rfl
    cases hc.symm.trans hc'
    exact Bool.false_ne_true (hdetached.symm.trans hattached)

end Detached

/-- An idle step changes nothing, and an instruction or a detach is of an attached instance. -/
theorem step_changes_one {s t : State} (h : step s = .next t) : OneAttachedChanges s t := by
  rcases step_eq_next h with ⟨-, rfl⟩ | ⟨r, rest, inst, i, -, hi, hexec⟩ | ⟨dev, inst, rest, -, ha, rfl⟩
  · exact .none rfl rfl
  · exact (execAt_changes_one (s := { s with pending := rest }) hi hexec).of_withPending
  · exact (detach_changes_one (s := { s with pending := rest }) ha).of_withPending

/-- Settles O59: a step changes at most one instance, an attached one. -/
theorem noStepChangesADetachedInstance : Obligations.NoStepChangesADetachedInstance :=
  fun _ _ _ hstep => ⟨fun _ => (step_changes_one hstep).uartAt_of_detached,
    fun _ => (step_changes_one hstep).spiAt_of_detached⟩

end Sys2Proof.Machine
end
